-- ==== Sys2Proof/Word.lean ====
section
/-! DEFINITION. The word types of the ZB-416 and their plainest arithmetic: flash and note bytes, the
16-bit sets and checks, and the saturating and wrapping counters of the manual (its numbers are whole
numbers, section 3.1, so quantities are `Nat`). -/

namespace Sys2Proof

/-- A byte of flash or of a note (section 3.5). -/
abbrev Byte := BitVec 8

/-- A 16-bit set: the attention conditions (bit c, R209), the V and N flags (bit r for region r). -/
abbrev Bits16 := BitVec 16

/-- Count up by one in 0..65535, where 65535 is followed by 1 (R12, R102, R151). -/
def countUp (n : Nat) : Nat := if n ≥ 65535 then 1 else n + 1

/-- Count up by one, saturating at `top`. -/
def satUp (top n : Nat) : Nat := if n < top then n + 1 else top

/-- The bit of a 16-bit set. -/
def Bits16.has (s : Bits16) (k : Nat) : Bool := s.getLsbD k

/-- The set with element `k` added. -/
def Bits16.insert (s : Bits16) (k : Nat) : Bits16 := s ||| BitVec.ofNat 16 (2 ^ k)

/-- The set with element `k` removed. -/
def Bits16.remove (s : Bits16) (k : Nat) : Bits16 := s &&& ~~~ (BitVec.ofNat 16 (2 ^ k))

/-- Two bytes, least significant first (section 3.5). -/
def le16 (n : Nat) : List Byte := [BitVec.ofNat 8 n, BitVec.ofNat 8 (n / 256)]

/-- Four bytes, least significant first (section 3.5). -/
def le32 (n : Nat) : List Byte := le16 n ++ le16 (n / 65536)

/-- The number that bytes spell, least significant first (section 3.5). -/
def ofLe : List Byte → Nat
  | [] => 0
  | b :: bs => b.toNat + 256 * ofLe bs

end Sys2Proof
end

