-- ==== Sys2Proof/Syntax.lean ====
section
/-! DEFINITION. The vocabulary of the manual (stations, states, bands, reasons, notes' fields, records) and
`Instr`, the commands the part takes: one constructor for each row of the table of operations and events. -/

namespace Sys2Proof

/-- A station number, 0..7; 0 is the console (section 3.2). -/
abbrev Station := Fin 8

/-- A flash region, 0..15 (R137). -/
abbrev Region := Fin 16

/-- A panel zone, 0..5 (R64). -/
abbrev ZoneId := Fin 6

/-- A note's target (R170). -/
inductive Target where
  | station (n : Station)
  | all
  deriving DecidableEq, Repr

/-- The roles of the straps, and the console's (section 3.3). -/
inductive Role where
  | base | lid | bay | console
  deriving DecidableEq, Repr

/-- The phases of the part (R201). -/
inductive Phase where
  | start | listen | running | strapFault
  deriving DecidableEq, Repr

/-- The reset cause of the START record (R202). -/
inductive ResetCause where
  | powerOn | pin | station
  deriving DecidableEq, Repr

/-- The phase a beacon carries (R177). -/
inductive PeerPhase where
  | running | deferred
  deriving DecidableEq, Repr

/-- The station shock state (R102). -/
inductive ShockState where
  | calm | falling | impact | settling | checking
  deriving DecidableEq, Repr

/-- The dominant axis of a motion sample (R100). -/
inductive Axis where
  | x | y | z
  deriving DecidableEq, Repr

/-- The bay state (R47). -/
inductive BayState where
  | empty | seated | ready | carrying | releasing | freed | lost | faulted
  deriving DecidableEq, Repr

/-- The state of a bay entry of the roster (R2); an EMPTY bay has no entry. -/
inductive EntryState where
  | seated | ready | carrying | releasing | freed | lost | faulted
  deriving DecidableEq, Repr

/-- Voltage bands (R46). -/
inductive VoltageBand where
  | low | mid | high
  deriving DecidableEq, Repr

/-- Temperature bands (R46). -/
inductive TempBand where
  | normal | warm | hot
  deriving DecidableEq, Repr

/-- The origin of a release ask (R24). -/
inductive Origin where
  | lever | console
  deriving DecidableEq, Repr

/-- The reasons of RELEASE-NO (R24). -/
inductive ReleaseReason where
  | unknown | held | noCover | full | timeout | coverLost | fault
  deriving DecidableEq, Repr

/-- The kinds of LET-GO (R24). -/
inductive LetGoKind where
  | handover | noHandover
  deriving DecidableEq, Repr

/-- The fault causes of a bay (R48, R54). -/
inductive FaultCause where
  | checkFail | hot
  deriving DecidableEq, Repr

/-- The quantity that failed a pack check (R48). -/
inductive FailingQuantity where
  | voltage | temperature
  deriving DecidableEq, Repr

/-- The result of a role check (R109). -/
inductive CheckResult where
  | ok | fault
  deriving DecidableEq, Repr

/-- How an episode started (R102). -/
inductive Source where
  | own | remote
  deriving DecidableEq, Repr

/-- The boost stage state (R85). -/
inductive Stage where
  | off | pass | boost
  deriving DecidableEq, Repr

/-- The configured boost mode (R85). -/
inductive BoostMode where
  | pass | boost | auto
  deriving DecidableEq, Repr

/-- What a string test measures of one string (R92). -/
inductive Measure where
  | ok | opened | shorted
  deriving DecidableEq, Repr

/-- The trigger of a string test (R92). -/
inductive TestTrigger where
  | start | checking | console
  deriving DecidableEq, Repr

/-- The coordinator's state, which is the episode state (R121). -/
inductive EpisodeState where
  | calm | opened | closing
  deriving DecidableEq, Repr

/-- The close reasons of an episode (R127, R130). -/
inductive CloseReason where
  | allSettled | timeout | interrupted
  deriving DecidableEq, Repr

/-- Zone groups (R64). -/
inductive Group where
  | a | b | none
  deriving DecidableEq, Repr

/-- Zone curves (R64). -/
inductive Curve where
  | linear | square
  deriving DecidableEq, Repr

/-- Ambient modes (R69). -/
inductive AmbientMode where
  | fixed | auto
  deriving DecidableEq, Repr

/-- The sixteen attention conditions, in the order of the table of section 11.1 (R188). -/
inductive Condition where
  | configDefaulted | linkNoise | linkOverrun | addrClash | acceptViolation | baseSilent | lowReserve
  | bayExcess | swapAbort | packFault | stringFault | headroom | episodeEnd | logOverrun | logFull
  | dropLost
  deriving DecidableEq, Repr

/-- The bit of a condition in the sets of R189, from CONFIG_DEFAULTED as bit 0 to DROP_LOST as bit 15
(R209). -/
def Condition.bit : Condition → Nat
  | .configDefaulted => 0 | .linkNoise => 1 | .linkOverrun => 2 | .addrClash => 3
  | .acceptViolation => 4 | .baseSilent => 5 | .lowReserve => 6 | .bayExcess => 7
  | .swapAbort => 8 | .packFault => 9 | .stringFault => 10 | .headroom => 11
  | .episodeEnd => 12 | .logOverrun => 13 | .logFull => 14 | .dropLost => 15

/-- The note kinds (R183). -/
inductive Kind where
  | fall | impact | lost | fault
  | calm | roster | letGo | releaseNo | releaseWait | taken | drained | gone | releaseAsk | settled
  | beacon
  | ask | setLevel | releaseBay | testStrings | resetStation | attentionResume | setMask | readLog
  | stopStream
  | collect | eraseRegion | protectV | protectNv | clearNvAll | lockNv | writeConfig | checkStore
  | reply | storeDone | seg | streamEnd | attention
  deriving DecidableEq, Repr

/-- The kind code of a note's byte 0 (R206). -/
def Kind.code : Kind → Nat
  | .fall => 1 | .impact => 2 | .lost => 3 | .fault => 4
  | .calm => 16 | .roster => 17 | .letGo => 18 | .releaseNo => 19 | .releaseWait => 20
  | .taken => 21 | .drained => 22 | .gone => 23 | .releaseAsk => 24 | .settled => 25
  | .beacon => 26
  | .ask => 32 | .setLevel => 33 | .releaseBay => 34 | .testStrings => 35 | .resetStation => 36
  | .attentionResume => 37 | .setMask => 38 | .readLog => 39 | .stopStream => 40
  | .collect => 48 | .eraseRegion => 49 | .protectV => 50 | .protectNv => 51 | .clearNvAll => 52
  | .lockNv => 53 | .writeConfig => 54 | .checkStore => 55
  | .reply => 64 | .storeDone => 65 | .seg => 66 | .streamEnd => 67 | .attention => 68

/-- The topics of ASK (R193). -/
inductive Topic where
  | status | roster | peers | zones | episode | conditions | guard | identity
  deriving DecidableEq, Repr

/-- A coded field of a console note: a value of the list its rule gives, or a code outside it, which the
part that takes the note refuses with BAD_VALUE (R194, R208). -/
inductive Field (α : Type) where
  | val (a : α)
  | bad (code : Nat)
  deriving DecidableEq, Repr

/-- A coded field of a note whose place among the payload's bytes the manual does not give: none lies outside the
values its rule lists, one does, or it is the topic of an ASK, with its code, index and part, or the step of a
WRITE-CONFIG (R192, R165, R208). -/
inductive BadField where
  | none
  | coded
  | topic (code index part : Nat)
  | step
  deriving DecidableEq, Repr

/-- The group field of SET-LEVEL (R80). -/
inductive LevelGroup where
  | a | b | keep
  deriving DecidableEq, Repr

/-- The ambient mode field of SET-LEVEL (R80). -/
inductive LevelMode where
  | fixed | auto | keep
  deriving DecidableEq, Repr

/-- The start of READ-LOG (R196). -/
inductive LogStart where
  | oldest
  | sequence (s : Nat)
  deriving DecidableEq, Repr

/-- The end mode of READ-LOG (R196). -/
inductive LogEnd where
  | toNewest
  | count (n : Nat)
  deriving DecidableEq, Repr

/-- A bay entry of the roster (R2). -/
structure Entry where
  station : Station
  state : EntryState
  weight : Nat
  charge : Nat
  voltage : VoltageBand
  temperature : TempBand
  silent : Bool
  held : Bool
  deriving DecidableEq, Repr

/-- The roster record (R1). The adapter weight is computed from `adapter` (`Roster.adapterWeight`). -/
structure Roster where
  version : Nat
  epoch : Nat
  adapter : Bool
  load : Nat
  allowance : Nat
  leaving : Option Station
  entries : List Entry
  deriving DecidableEq, Repr

/-- The bay summary of a BAY station's beacon (R46, R178). `current` counts units of 10 mA. -/
structure BaySummary where
  state : BayState
  pathClosed : Bool
  charge : Nat
  voltage : VoltageBand
  temperature : TempBand
  lever : Bool
  current : Nat
  deriving DecidableEq, Repr

/-- The role summary of a LID's beacon (R178). -/
structure LidSummary where
  applied : Nat
  allowance : Nat
  stage : Stage
  faults : List ZoneId
  deriving DecidableEq, Repr

/-- The role summary of a BASE's beacon (R178). -/
structure BaseSummary where
  version : Nat
  adapter : Bool
  episode : EpisodeState
  slotBusy : Bool
  deriving DecidableEq, Repr

/-- The role a beacon carries together with that role's summary; CONSOLE has none (R177, R178). -/
inductive RoleSummary where
  | base (b : BaseSummary)
  | lid (l : LidSummary)
  | bay (b : BaySummary)
  | console
  deriving DecidableEq, Repr

/-- The role of a beacon (R177). -/
def RoleSummary.role : RoleSummary → Role
  | .base _ => .base
  | .lid _ => .lid
  | .bay _ => .bay
  | .console => .console

/-- The fields of a BEACON (R177). -/
structure Beacon where
  phase : PeerPhase
  shock : ShockState
  count : Nat
  summary : RoleSummary
  deriving DecidableEq, Repr

/-- The fields of SETTLED (R110). -/
structure SettledNote where
  count : Nat
  source : Source
  sourceStation : Option Station
  result : CheckResult
  peak : Nat
  axis : Axis
  impacts : Nat
  late : Bool
  deriving DecidableEq, Repr

/-- The latest string result of a zone (R94). -/
inductive StringResult where
  | none | ok | opened | shorted
  deriving DecidableEq, Repr

/-- OPEN or SHORT (R94). -/
def StringResult.faulty : StringResult → Bool
  | .opened | .shorted => true
  | .none | .ok => false

/-- The result a measurement becomes (R94). -/
def Measure.result : Measure → StringResult
  | .ok => .ok
  | .opened => .opened
  | .shorted => .shorted

/-! ### Log records (R140) -/

/-- The outcomes of a SWAP record (R45). -/
inductive SwapOutcome where
  | complete | noHandover | timeout | coverLost | yanked | faulted
  deriving DecidableEq, Repr

/-- The end evidence of a SWAP record (R45). -/
inductive EndEvidence where
  | gone | beacon | lost | none
  deriving DecidableEq, Repr

/-- The body of a SWAP record (R45). -/
structure SwapRecord where
  outcome : SwapOutcome
  leaving : Station
  origin : Origin
  takers : List Station
  confirmed : List Station
  lostTakers : List Station
  drained : Bool
  evidence : EndEvidence
  elapsed : Nat
  suspensions : Nat
  version : Nat
  deriving DecidableEq, Repr

/-- The causes of a PACK record (R62). -/
inductive PackCause where
  | checkFail | lost | hot | rescueClose | pulled
  deriving DecidableEq, Repr

/-- The body of a PACK record (R62). -/
structure PackRecord where
  cause : PackCause
  stateBefore : BayState
  failing : Option FailingQuantity
  voltage : Nat
  temperature : Int
  current : Nat
  charge : Nat
  version : Nat
  shock : ShockState
  deriving DecidableEq, Repr

/-- The body of a STRING record (R98). -/
structure StringRecord where
  trigger : TestTrigger
  results : Vector StringResult 6
  masked : List ZoneId
  disabled : List ZoneId
  changed : List ZoneId
  stage : Stage
  shock : ShockState
  version : Nat
  deriving DecidableEq, Repr

/-- The outcomes of a DROP record (R117). -/
inductive DropOutcome where
  | impact | noImpact | interrupted
  deriving DecidableEq, Repr

/-- How an episode ended (R117). -/
inductive CalmBy where
  | base | timeout | none
  deriving DecidableEq, Repr

/-- The fields of a station's DROP record (R117). -/
structure DropRecord where
  count : Nat
  source : Source
  sourceStation : Option Station
  fallDuration : Nat
  impactCount : Nat
  peak : Nat
  axis : Axis
  outcome : DropOutcome
  calmBy : CalmBy
  duringHandover : Bool
  checkResult : Option CheckResult
  deriving DecidableEq, Repr

/-- The result of an entry of the summary's station list (R129). -/
inductive SummaryResult where
  | ok | fault | unsettled | none
  deriving DecidableEq, Repr

/-- An entry of the summary's station list (R129). -/
structure SummaryEntry where
  station : Station
  peak : Nat
  result : SummaryResult
  extra : Bool
  deriving DecidableEq, Repr

/-- The fields a BASE's summary DROP record adds (R129). -/
structure EpisodeSummary where
  reason : CloseReason
  settledCount : Nat
  participantCount : Nat
  stations : List SummaryEntry
  deriving DecidableEq, Repr

/-- The reasons of an acceptance violation (R184). -/
inductive ViolationReason where
  | unknownSender | roleMismatch | roleClash
  deriving DecidableEq, Repr

/-- The violation capture (R185). -/
structure Capture where
  reason : ViolationReason
  sender : Station
  kind : Kind
  target : Target
  roleHeld : Option Role
  time : Nat
  deriving DecidableEq, Repr

/-- Why the configuration was refused (R204, R209). -/
inductive ConfigRefusal where
  | blank | format | check | range
  deriving DecidableEq, Repr

/-- The body of a START record (R204). `config` is none for LOADED. -/
structure StartRecord where
  cause : ResetCause
  config : Option ConfigRefusal
  role : Role
  station : Station
  deferred : Bool
  shock : ShockState
  nFlags : Bits16
  bay : Option BayState
  deriving DecidableEq, Repr

/-- What a block hands to the Record Store: the record's kind and the fields of its body (R140). -/
inductive RecordContent where
  | start (r : StartRecord)
  | drop (r : DropRecord) (summary : Option EpisodeSummary)
  | swap (r : SwapRecord)
  | pack (r : PackRecord)
  | string (r : StringRecord)
  | guard (c : Capture)
  deriving DecidableEq, Repr

/-- The record kind in bits 0..2 of byte 0 (R210). -/
def RecordContent.kindCode : RecordContent → Nat
  | .start _ => 1
  | .drop _ _ => 2
  | .swap _ => 3
  | .pack _ => 4
  | .string _ => 5
  | .guard _ => 6

/-- A DROP record (R141). -/
def RecordContent.isDrop (c : RecordContent) : Bool := c.kindCode == 2

/-! ### The commands -/

/-- The commands the part takes, one constructor for each row of the table of operations and events. A note
row carries the note's sender, target and payload fields; a pin or sensor row carries the level or the
reading; a row that is an expiry or an end of work carries nothing. -/
inductive Instr where
  /-- POWER_ON_RESET (R201), with the levels of the ROLE and ADDR straps. -/
  | powerOnReset (role : Fin 4) (addr : Station)
  /-- PIN_RESET (R201): RESETn rises. -/
  | pinReset
  /-- ENTER_LISTEN (R202). -/
  | enterListen
  /-- ENTER_RUNNING (R204). -/
  | enterRunning
  /-- ALERT_LINE_CHANGE (R169): whether some other station drives LA from now on. -/
  | alertLineChange (othersDrive : Bool)
  /-- NOTE_START (R172). -/
  | noteStart
  /-- NOTE_WITHDRAW (R173). -/
  | noteWithdraw
  /-- NOTE_SENT (R174). -/
  | noteSent
  /-- NOTE_GARBLED (R171): the bytes heard, and the coded field outside its values whose layout the manual does
  not give. -/
  | noteGarbled (bytes : List Byte) (bad : BadField)
  /-- NOTE_NOT_CONSUMED (R184). -/
  | noteNotConsumed (kind : Kind) (sender : Station) (target : Target)
  /-- BEACON_TIMER (R177). -/
  | beaconTimer
  /-- PEER_SILENT (R180): the peer whose time reached 800 ms. -/
  | peerSilent (peer : Station)
  /-- BEACON (R179). -/
  | beacon (sender : Station) (target : Target) (body : Beacon)
  /-- FALL (R104). -/
  | fall (sender : Station) (target : Target) (count fallTime : Nat)
  /-- IMPACT (R123). -/
  | impact (sender : Station) (target : Target) (count impacts magnitude : Nat) (axis : Axis)
  /-- LOST (R5). -/
  | lost (sender : Station) (target : Target)
  /-- FAULT (R5). -/
  | fault (sender : Station) (target : Target) (cause : FaultCause)
  /-- CALM (R111, R128). -/
  | calm (sender : Station) (target : Target) (episode : Nat) (reason : CloseReason) (settled : Nat)
      (unsettled : List Station)
  /-- ROSTER (R17), with its payload bytes (R207). -/
  | roster (sender : Station) (target : Target) (payload : List Byte)
  /-- LET_GO (R51). -/
  | letGo (sender : Station) (target : Target) (kind : LetGoKind)
  /-- RELEASE_NO (R58). -/
  | releaseNo (sender : Station) (target : Target) (reason : ReleaseReason)
  /-- RELEASE_WAIT (R58). -/
  | releaseWait (sender : Station) (target : Target) (position : Nat)
  /-- TAKEN (R30). -/
  | taken (sender : Station) (target : Target) (version : Nat)
  /-- DRAINED (R31), the current in units of 10 mA. -/
  | drained (sender : Station) (target : Target) (current : Nat)
  /-- GONE (R34). -/
  | gone (sender : Station) (target : Target)
  /-- RELEASE_ASK (R25). -/
  | releaseAsk (sender : Station) (target : Target) (origin : Origin)
  /-- SETTLED (R124). -/
  | settled (sender : Station) (target : Target) (body : SettledNote)
  /-- ASK_STATUS (R193). -/
  | askStatus (sender : Station) (target : Target) (index part : Nat)
  /-- ASK_ROSTER (R193). -/
  | askRoster (sender : Station) (target : Target) (index part : Nat)
  /-- ASK_PEERS (R186). -/
  | askPeers (sender : Station) (target : Target) (index part : Nat)
  /-- ASK_ZONES (R81). -/
  | askZones (sender : Station) (target : Target) (index part : Nat)
  /-- ASK_EPISODE (R119). -/
  | askEpisode (sender : Station) (target : Target) (index part : Nat)
  /-- ASK_CONDITIONS (R193). -/
  | askConditions (sender : Station) (target : Target) (index part : Nat)
  /-- ASK_GUARD (R186). -/
  | askGuard (sender : Station) (target : Target) (index part : Nat)
  /-- ASK_IDENTITY (R193). -/
  | askIdentity (sender : Station) (target : Target) (index part : Nat)
  /-- SET_LEVEL (R80). -/
  | setLevel (sender : Station) (target : Target) (group : Field LevelGroup) (level : Nat)
      (mode : Field LevelMode)
  /-- RELEASE_BAY (R57). -/
  | releaseBay (sender : Station) (target : Target)
  /-- TEST_STRINGS (R93). -/
  | testStrings (sender : Station) (target : Target)
  /-- RESET_STATION (R195). -/
  | resetStation (sender : Station) (target : Target)
  /-- ATTENTION_RESUME (R191), with the set of conditions to clear. -/
  | attentionResume (sender : Station) (target : Target) (clear : Bits16)
  /-- SET_MASK (R189). -/
  | setMask (sender : Station) (target : Target) (mask : Bits16)
  /-- READ_LOG (R196). -/
  | readLog (sender : Station) (target : Target) (tag : Nat) (start : Field LogStart)
      (endMode : Field LogEnd) (checkStop : Field Bool)
  /-- STOP_STREAM (R199). -/
  | stopStream (sender : Station) (target : Target) (tag : Nat)
  /-- COLLECT (R148). -/
  | collect (sender : Station) (target : Target) (sequence : Nat)
  /-- ERASE_REGION (R163). -/
  | eraseRegion (sender : Station) (target : Target) (region : Nat)
  /-- PROTECT_V (R159). -/
  | protectV (sender : Station) (target : Target) (region : Nat) (setting : Field Bool)
  /-- PROTECT_NV (R160). -/
  | protectNv (sender : Station) (target : Target) (region : Nat)
  /-- CLEAR_NV_ALL (R161). -/
  | clearNvAll (sender : Station) (target : Target)
  /-- LOCK_NV (R162). -/
  | lockNv (sender : Station) (target : Target)
  /-- WRITE_CONFIG_START (R165). -/
  | writeConfigStart (sender : Station) (target : Target) (length : Nat)
  /-- WRITE_CONFIG_SEGMENT (R165). -/
  | writeConfigSegment (sender : Station) (target : Target) (offset : Nat) (bytes : List Byte)
  /-- WRITE_CONFIG_FINISH (R166). -/
  | writeConfigFinish (sender : Station) (target : Target)
  /-- CHECK_STORE (R153). -/
  | checkStore (sender : Station) (target : Target)
  /-- ADAPTER_CHANGE (R7): the new level of the ADAPTER sense line. -/
  | adapterChange (present : Bool)
  /-- PUBLISH_TIMER (R14): the reading of the load sense line at the expiry. -/
  | publishTimer (load : Nat)
  /-- HANDOVER_TIMER (R23). -/
  | handoverTimer
  /-- PACK_SAMPLE (R46). -/
  | packSample (voltage current : Nat) (temperature : Int)
  /-- RAIL_SAMPLE (R46). -/
  | railSample (millivolts : Nat)
  /-- CHARGE_REPORT (R46). -/
  | chargeReport (charge : Nat)
  /-- PRESENT_RISE (R48), with the pack's charge report, which is read at once (R46). -/
  | presentRise (charge : Nat)
  /-- PRESENT_FALL (R52). -/
  | presentFall
  /-- LEVER_RISE (R57). -/
  | leverRise
  /-- LEVER_FALL (R57). -/
  | leverFall
  /-- PACK_CHECK_END (R48). -/
  | packCheckEnd
  /-- RESCUE_CLOSE (R56). -/
  | rescueClose
  /-- RESCUE_GRACE_END (R56). -/
  | rescueGraceEnd
  /-- FREED_TIMER (R52). -/
  | freedTimer
  /-- LOST_TIMER (R53). -/
  | lostTimer
  /-- COOLING_TIMER (R55). -/
  | coolingTimer
  /-- ANSWER_TIMER (R58). -/
  | answerTimer
  /-- RE_ASK_DELAY_TIMER (R60). -/
  | reAskDelayTimer
  /-- REFUSED_LAMP_TIMER (R59). -/
  | refusedLampTimer
  /-- AMBIENT_READING (R66). -/
  | ambientReading (lux : Nat)
  /-- RAMP_TIMER (R77). -/
  | rampTimer
  /-- OFF_TIMER (R87). -/
  | offTimer
  /-- HEADROOM_REPORT (R88): the comparator's new report for one string. -/
  | headroomReport (zone : ZoneId) (low : Bool)
  /-- STRING_TEST_END (R95), with what the drivers measured of the six strings. -/
  | stringTestEnd (measures : Vector Measure 6)
  /-- MOTION_SAMPLE (R100). -/
  | motionSample (magnitude : Nat) (axis : Axis)
  /-- OWN_FALL (R103). -/
  | ownFall
  /-- IMPACT_END (R107). -/
  | impactEnd
  /-- FALL_WINDOW_TIMER (R105). -/
  | fallWindowTimer
  /-- ENTER_CHECKING (R109). -/
  | enterChecking
  /-- CHECKING_TIMER (R112). -/
  | checkingTimer
  /-- CLOSING_TIMER (R126). -/
  | closingTimer
  /-- RECORD_PROGRAM_DONE (R142). -/
  | recordProgramDone
  /-- REGION_ERASE_DONE (R144). -/
  | regionEraseDone
  /-- COLLECT_MARK_DONE (R148). -/
  | collectMarkDone
  /-- FLAG_PROGRAM_DONE (R160). -/
  | flagProgramDone
  /-- FLAG_CLEAR_DONE (R161). -/
  | flagClearDone
  /-- CONFIG_PROGRAM_DONE (R166). -/
  | configProgramDone
  /-- STORE_CHECK_DONE (R153). -/
  | storeCheckDone
  /-- WRITE_TIMER (R165). -/
  | writeTimer
  /-- HOLD_CHANGE (R157): the new level of HOLD. -/
  | holdChange (high : Bool)
  /-- STREAM_ADVANCE (R197). -/
  | streamAdvance
  /-- STREAM_END_QUEUE (R198). -/
  | streamEndQueue
  /-- RESET_REPLY_REQUEUE (R195). -/
  | resetReplyRequeue
  /-- RESETN_FALL (R201). -/
  | resetnFall
  /-- ALWAYS_ON_SUPPLY_LOSS (R155). -/
  | alwaysOnSupplyLoss
  deriving DecidableEq, Repr

end Sys2Proof
end

