-- ==== Sys2Proof/Config.lean ====
section
/-! DEFINITION. What is fixed for the part: the durations and capacities the manual gives, the configuration
in force with its default table (R209), and the free values: constants without a body, for what the manual
leaves open (log entries 3 to 8). -/

namespace Sys2Proof

/-! ### Free values -/

/-- FREE VALUE. The bytes of a record's body: the manual gives the fields and their order, not their bytes
(R140). DESIGN CHOICE, log entry 3, safe. -/
opaque Config.recordBody : RecordContent → List Byte

/-- FREE VALUE. The number of 12-byte parts of a topic's content for a role, beyond the fewest its fields fit in (R192).
DESIGN CHOICE, log entry 4, safe. -/
opaque Config.moreParts : Topic → Role → Nat

/-- FREE VALUE. For the n-th cut flash operation, which bits of the byte at an address had not yet been
changed, or had been changed, when it was cut (R142, R144, R155, R164, R166).
DESIGN CHOICE, log entry 5, safe. -/
opaque Config.cutMask : Nat → Nat → Byte

/-- FREE VALUE. For the n-th cut flag operation, which flags had been written (R156).
DESIGN CHOICE, log entry 6, safe. -/
opaque Config.cutFlags : Nat → Bits16

/-- FREE VALUE. For the n-th pack sample with more than one outcome, which of them is taken (R48, R53, R54
give no order). DESIGN CHOICE, log entry 7, safe. -/
opaque Config.packOrder : Nat → Nat

/-- FREE VALUE. For the n-th pack sample that fails a check by voltage and by temperature, whether VOLTAGE is
the failing quantity (R48). DESIGN CHOICE, log entry 8, safe. -/
opaque Config.bothFail : Nat → Bool

/-! ### Times in ms and capacities -/

/-- The listen timer (R203). -/
abbrev Config.listenMs : Nat := 600
/-- The beacon timer (R177). -/
abbrev Config.beaconMs : Nat := 250
/-- The silence time (R180). -/
abbrev Config.silenceMs : Nat := 800
/-- The publish timer (R14). -/
abbrev Config.publishMs : Nat := 1000
/-- The handover timer (R23). -/
abbrev Config.handoverMs : Nat := 3000
/-- The pack check (R48). -/
abbrev Config.packCheckMs : Nat := 300
/-- The wait in LOST (R53). -/
abbrev Config.lostMs : Nat := 1000
/-- The FREED timer (R52). -/
abbrev Config.freedMs : Nat := 30000
/-- The cooling timer (R55). -/
abbrev Config.coolingMs : Nat := 10000
/-- The rescue grace (R56). -/
abbrev Config.graceMs : Nat := 1000
/-- The answer timer (R57). -/
abbrev Config.answerMs : Nat := 1000
/-- The re-ask delay timer (R60). -/
abbrev Config.reAskMs : Nat := 1000
/-- The REFUSED indication of the lamp (R59). -/
abbrev Config.refusedMs : Nat := 2000
/-- The ramp timer (R77). -/
abbrev Config.rampMs : Nat := 20
/-- The ramp step in mA (R77). -/
abbrev Config.rampStep : Nat := 8
/-- The test current of a string in mA (R78, R92). -/
abbrev Config.testCurrent : Nat := 10
/-- The off timer (R87). -/
abbrev Config.offMs : Nat := 1000
/-- The test timer (R92). -/
abbrev Config.testMs : Nat := 100
/-- The fall window (R101). -/
abbrev Config.fallWindowMs : Nat := 1000
/-- The quiet run that ends an impact (R101). -/
abbrev Config.quietRun : Nat := 50
/-- The rest run that ends SETTLING (R101). -/
abbrev Config.restRun : Nat := 500
/-- The checking timeout (R101). -/
abbrev Config.checkingMs : Nat := 5000
/-- The closing timer (R126). -/
abbrev Config.closingMs : Nat := 3000
/-- The write timer (R165). -/
abbrev Config.writeMs : Nat := 2000
/-- A region erase (R144). -/
abbrev Config.eraseMs : Nat := 400
/-- A flag clear (R161). -/
abbrev Config.flagClearMs : Nat := 400
/-- A store check (R153). -/
abbrev Config.storeCheckMs : Nat := 15
/-- The samples of the rescue close test, one each ms for 20 ms (R56). -/
abbrev Config.railRun : Nat := 20
/-- The rail undervoltage level in mV (R56). -/
abbrev Config.railLow : Nat := 9000
/-- The path rating in mA (R47). -/
abbrev Config.pathRating : Nat := 4000
/-- The safe allowance in mA (R72). -/
abbrev Config.safeAllowance : Nat := 400
/-- The size of a region in bytes (R137). -/
abbrev Config.regionSize : Nat := 4096
/-- The entries of the outgoing note queue, and how many of them may be ordinary (R174). -/
abbrev Config.noteEntries : Nat := 6
/-- The ordinary entries of the outgoing note queue (R174). -/
abbrev Config.noteOrdinary : Nat := 5
/-- The entries of the write queue (R141). -/
abbrev Config.recordEntries : Nat := 8
/-- The ordinary entries of the write queue (R141). -/
abbrev Config.recordOrdinary : Nat := 6
/-- The length of the configuration record (R209). -/
abbrev Config.configLength : Nat := 68
/-- The highest sequence (R146). -/
abbrev Config.lastSequence : Nat := 4294967295

/-! ### The configuration in force -/

/-- The configured fields of a zone (R64). -/
structure ZoneConfig where
  base : Nat
  group : Group
  curve : Curve
  sheddable : Bool
  masked : Bool
  enabled : Bool
  deriving DecidableEq, Repr

/-- The fields of the configuration record (R209). The ambient curve is its eight (lux, fader) points. -/
structure Configuration where
  freeFallThreshold : Nat
  fallTime : Nat
  impactThreshold : Nat
  reserve : Nat
  letGoCurrent : Nat
  zones : Vector ZoneConfig 6
  curve : List (Nat × Nat)
  boostMode : BoostMode
  headroomLevel : Nat
  mask : Bits16
  vDefaults : Bits16
  deriving DecidableEq, Repr

/-- A zone of the default table: 250 mA, group A, LINEAR, unmasked, ENABLED (R64). -/
def ZoneConfig.byDefault (sheddable : Bool) : ZoneConfig :=
  { base := 250, group := .a, curve := .linear, sheddable := sheddable, masked := false, enabled := true }

/-- The default table (R209; R67 for the curve, R156 for the V flags). -/
def Configuration.defaults : Configuration where
  freeFallThreshold := 5
  fallTime := 40
  impactThreshold := 96
  reserve := 5
  letGoCurrent := 150
  zones := #v[.byDefault true, .byDefault false, .byDefault false, .byDefault false, .byDefault false,
    .byDefault true]
  curve := [(0, 48), (100, 64), (400, 96), (1500, 128), (6000, 168), (20000, 208), (50000, 240),
    (90000, 255)]
  boostMode := .auto
  headroomLevel := 300
  mask := 0
  vDefaults := 0x8001

end Sys2Proof
end

