-- ==== Sys2Proof/WellFormed.lean ====
section
/-! DEFINITION. Which commands the world can send: every number lies in the range the manual gives it. The
machine's meanings are total and do not ask this; claims about what really reaches a part may. -/

namespace Sys2Proof

/-- A number that fits a byte. -/
def fitsByte (n : Nat) : Bool := n < 256

/-- A number that fits two bytes. -/
def fitsWord (n : Nat) : Bool := n < 65536

/-- A CONSOLE beacon comes from station 0 alone and carries phase RUNNING; DEFERRED is a BASE's phase
(R177). -/
def Beacon.wellFormed (b : Beacon) : Bool :=
  fitsWord b.count &&
  match b.summary with
  | .base s => fitsWord s.version
  | .lid s => s.applied ≤ 1500 && s.allowance ≤ 1500 && b.phase == .running
  | .bay s => s.charge ≤ 100 && fitsByte s.current && b.phase == .running
  | .console => b.phase == .running

/-- The fields of SETTLED lie in their ranges (R110). -/
def SettledNote.wellFormed (b : SettledNote) : Bool :=
  fitsWord b.count && fitsByte b.peak && fitsByte b.impacts

/-- An ASK carries an index 0..255 and a part 0..15 (R192). -/
def askWellFormed (index part : Nat) : Bool := fitsByte index && part < 16

/-- A topic outside its values comes with an ASK's index and part (R192). -/
def BadField.wellFormed : BadField → Bool
  | .topic _ index part => askWellFormed index part
  | .none | .coded | .step => true

/-- The number of a READ-LOG's fields (R196). -/
def LogEnd.fits : Field LogEnd → Bool
  | .val (.count n) => fitsByte n
  | .val .toNewest => true
  | .bad _ => true

/-- The sequence a READ-LOG starts at (R196). -/
def LogStart.fits : Field LogStart → Bool
  | .val (.sequence s) => 1 ≤ s && s ≤ Config.lastSequence
  | .val .oldest => true
  | .bad _ => true

/-- A command whose numbers lie in the ranges of the manual. -/
def Instr.wellFormed : Instr → Bool
  | .powerOnReset _ _ => true
  | .pinReset | .enterListen | .enterRunning | .noteStart | .noteWithdraw | .noteSent => true
  | .alertLineChange _ => true
  | .noteGarbled bytes bad => bytes.length ≤ 261 && bad.wellFormed
  | .noteNotConsumed _ _ _ => true
  | .beaconTimer => true
  | .peerSilent _ => true
  | .beacon _ _ b => b.wellFormed
  | .fall _ _ count fallTime => fitsWord count && fitsByte fallTime
  | .impact _ _ count impacts magnitude _ => fitsWord count && fitsByte impacts && fitsByte magnitude
  | .lost _ _ | .fault _ _ _ => true
  | .calm _ _ count _ answered _ => fitsWord count && answered ≤ 6
  | .roster _ _ payload => payload.length ≤ 16
  | .letGo _ _ _ | .releaseNo _ _ _ => true
  | .releaseWait _ _ position => 1 ≤ position && position ≤ 2
  | .taken _ _ version => fitsWord version
  | .drained _ _ current => fitsByte current
  | .gone _ _ | .releaseAsk _ _ _ => true
  | .settled _ _ b => b.wellFormed
  | .askStatus _ _ i p | .askRoster _ _ i p | .askPeers _ _ i p | .askZones _ _ i p
  | .askEpisode _ _ i p | .askConditions _ _ i p | .askGuard _ _ i p | .askIdentity _ _ i p =>
      askWellFormed i p
  | .setLevel _ _ _ level _ => fitsByte level
  | .releaseBay _ _ | .testStrings _ _ | .resetStation _ _ => true
  | .attentionResume _ _ _ | .setMask _ _ _ => true
  | .readLog _ _ tag start endMode _ => fitsByte tag && LogStart.fits start && LogEnd.fits endMode
  | .stopStream _ _ tag => fitsByte tag
  | .collect _ _ s => 1 ≤ s && s ≤ Config.lastSequence
  | .eraseRegion _ _ r | .protectV _ _ r _ | .protectNv _ _ r => fitsByte r
  | .clearNvAll _ _ | .lockNv _ _ => true
  | .writeConfigStart _ _ length => fitsByte length
  | .writeConfigSegment _ _ offset bytes => fitsByte offset && 1 ≤ bytes.length && bytes.length ≤ 13
  | .writeConfigFinish _ _ | .checkStore _ _ => true
  | .adapterChange _ => true
  | .publishTimer load => fitsWord load
  | .handoverTimer => true
  | .packSample voltage current temperature =>
      fitsWord voltage && fitsWord current && -40 ≤ temperature && temperature ≤ 125
  | .railSample mv => fitsWord mv
  | .chargeReport charge | .presentRise charge => charge ≤ 100
  | .presentFall | .leverRise | .leverFall | .packCheckEnd | .rescueClose | .rescueGraceEnd => true
  | .freedTimer | .lostTimer | .coolingTimer | .answerTimer | .reAskDelayTimer | .refusedLampTimer => true
  | .ambientReading lux => lux ≤ 120000
  | .rampTimer | .offTimer | .headroomReport _ _ | .stringTestEnd _ => true
  | .motionSample magnitude _ => fitsByte magnitude
  | .ownFall | .impactEnd | .fallWindowTimer | .enterChecking | .checkingTimer | .closingTimer => true
  | .recordProgramDone | .regionEraseDone | .collectMarkDone | .flagProgramDone | .flagClearDone => true
  | .configProgramDone | .storeCheckDone | .writeTimer | .holdChange _ => true
  | .streamAdvance | .streamEndQueue | .resetReplyRequeue | .resetnFall | .alwaysOnSupplyLoss => true

end Sys2Proof
end

