-- ==== Sys2Proof/Decode.lean ====
section
/-! DEFINITION. Decoding: the table gives no bits to any of its rows, so no word spells a command. -/

namespace Sys2Proof

/-- The command a word spells by the bits of the table of operations: none, since no row has bits. -/
def decodeTableWord (_nbits _w : Nat) : Option Instr := none

end Sys2Proof
end

