-- ==== Sys2Proof/Machine/State.lean ====
section
/-! DEFINITION. The state of one ZB-416: every register, queue, table, timer, flag and pin the manual gives
it, block by block, as plain data; the notes it sends; its fault and refusal reasons; and the state right
after reset. A timer is the ms it has left, or none while it is stopped. -/

namespace Sys2Proof.Machine

/-! ### Peers (R179) -/

/-- An entry of the peer table, with its reset values (R179, R187). -/
structure Peer where
  seen : Bool := false
  role : Option Role := none
  phase : Option PeerPhase := none
  time : Nat := 0
  silent : Bool := true
  shock : Option ShockState := none
  count : Nat := 0
  summary : Option RoleSummary := none
  deriving DecidableEq, Repr

/-! ### The Roster Unit -/

/-- The phases of the handover slot (R21). -/
inductive SlotPhase where
  | shifting | freeing | suspended
  deriving DecidableEq, Repr

/-- The record of a BUSY handover slot (R21). -/
structure Slot where
  leaving : Station
  origin : Origin
  takers : List Station
  confirmed : List Station
  lostTakers : List Station
  drained : Bool
  letGoSent : Bool
  phase : SlotPhase
  startTime : Nat
  suspensions : Nat
  deriving DecidableEq, Repr

/-- An entry of the release wait list (R22). -/
structure Waiter where
  station : Station
  origin : Origin
  deriving DecidableEq, Repr

/-- The Roster Unit (R1, R14, R21, R22, R23). -/
structure RosterUnit where
  record : Roster
  slot : Option Slot
  waitList : List Waiter
  handoverTimer : Option Nat
  publishTimer : Option Nat
  deriving DecidableEq, Repr

/-- The roster image of a BAY or LID: the record of one ROSTER and its sender (R17). -/
structure Image where
  sender : Station
  record : Roster
  deriving DecidableEq, Repr

/-! ### The Bay Controller -/

/-- The ask state (R57). -/
inductive AskState where
  | none | asked
  | waiting (position : Nat)
  deriving DecidableEq, Repr

/-- The latest pack sample (R46). -/
structure PackSample where
  voltage : Nat
  current : Nat
  temperature : Int
  deriving DecidableEq, Repr

/-- The Bay Controller (R46 to R63). `path` is the path driver, closed when true. -/
structure Bay where
  state : BayState := .empty
  path : Bool := false
  sample : PackSample := { voltage := 0, current := 0, temperature := 0 }
  charge : Nat := 0
  check : Option Nat := none
  checkForRole : Bool := false
  failing : Option FailingQuantity := none
  cause : Option FaultCause := none
  drainedSent : Bool := false
  freed : Option Nat := none
  lostWait : Option Nat := none
  cooling : Option Nat := none
  grace : Option Nat := none
  graceSkipped : Bool := false
  rescueRating : Bool := false
  railRun : Nat := 0
  ask : AskState := .none
  origin : Origin := .lever
  reAsk : Bool := false
  answer : Option Nat := none
  reAskDelay : Option Nat := none
  refused : Option Nat := none
  goneOwed : Bool := false
  deriving DecidableEq, Repr

/-! ### The Panel Controller and the Backlight Supply -/

/-- An entry of the zone table (R64). -/
structure Zone where
  config : ZoneConfig
  enabled : Bool
  demand : Nat := 0
  target : Nat := 0
  applied : Nat := 0
  deriving DecidableEq, Repr

/-- The Panel Controller (R64 to R78). The filter holds the readings, oldest first. -/
structure Panel where
  zones : Vector Zone 6
  groupA : Nat := 160
  groupB : Nat := 160
  mode : AmbientMode := .auto
  filter : List Nat := []
  ambient : Nat := 255
  ramp : Option Nat := none
  deriving DecidableEq, Repr

/-- A headroom indication (R88). -/
inductive Indication where
  | none | ok | low
  deriving DecidableEq, Repr

/-- A running string test (R92). -/
structure StringTest where
  trigger : TestTrigger
  testSet : List ZoneId
  timer : Nat
  deriving DecidableEq, Repr

/-- The Backlight Supply (R85 to R99). The configured mode and the headroom level stand in the configuration
in force; a test that is none is IDLE. -/
structure Supply where
  stage : Stage := .off
  offTimer : Option Nat := none
  indications : Vector Indication 6 := Vector.replicate 6 .none
  test : Option StringTest := none
  results : Vector StringResult 6 := Vector.replicate 6 .none
  deriving DecidableEq, Repr

/-! ### The Shock Monitor and the episode coordinator -/

/-- An episode record: the fields of the DROP record, its check-pending flag, the fall start and the entry to
FALLING in ms since the station's start, and whether the fall duration is fixed (R102, R106). -/
structure Episode where
  drop : DropRecord
  checkPending : Bool
  fallStart : Nat
  fallingAt : Nat
  durationFixed : Bool
  deriving DecidableEq, Repr

/-- The Shock Monitor (R100 to R120). `settledOwed` holds the SETTLED notes due in LISTEN (R110). -/
structure Shock where
  state : ShockState := .calm
  count : Nat := 0
  freeFall : Nat := 0
  quiet : Nat := 0
  rest : Nat := 0
  fallWindow : Option Nat := none
  checking : Option Nat := none
  episode : Option Episode := none
  closed : Option Episode := none
  calmOwed : Bool := false
  settledOwed : List SettledNote := []
  deriving DecidableEq, Repr

/-- The marks of a coordinator entry (R121). -/
inductive Mark where
  | opened | settled | unsettled
  deriving DecidableEq, Repr

/-- An entry of the coordinator's lists (R121). -/
structure Participant where
  station : Station
  result : Option CheckResult := none
  peak : Nat := 0
  axis : Axis := .x
  impacts : Nat := 0
  dropped : Bool := false
  mark : Mark := .opened
  deriving DecidableEq, Repr

/-- The episode coordinator (R121). -/
structure Coordinator where
  state : EpisodeState := .calm
  count : Nat := 0
  participants : List Participant := []
  extras : List Participant := []
  closing : Option Nat := none
  deriving DecidableEq, Repr

/-! ### The Record Store -/

/-- The state of a region in the region table (R137). -/
inductive RegionState where
  | blank | written | erasing
  deriving DecidableEq, Repr

/-- An entry of the region table (R137). -/
structure RegionEntry where
  state : RegionState := .blank
  fill : Nat := 0
  first : Option Nat := none
  last : Option Nat := none
  good : Nat := 0
  bad : Nat := 0
  uncollected : Nat := 0
  deriving DecidableEq, Repr

/-- An entry of the write queue (R141): what was handed over, the bytes of its body, and the seconds since
start at that moment (R140). -/
structure QueueEntry where
  content : RecordContent
  body : List Byte
  seconds : Nat
  deriving DecidableEq, Repr

/-- The causes of a region erase (R143, R164). -/
inductive EraseCause where
  | ring | console
  deriving DecidableEq, Repr

/-- What the flash engine runs (R138). A mark operation holds the addresses still to mark. -/
inductive EngineOp where
  | idle
  | program (region : Region) (offset : Nat) (bytes : List Byte) (sequence : Nat) (drop : Bool)
  | erase (region : Region) (cause : EraseCause)
  | marks (todo : List Nat) (marked : Nat)
  | flagProgram (region : Region)
  | flagClear
  | configProgram (offset : Nat) (todo : List (List Byte)) (programmed : Nat)
  | check
  deriving DecidableEq, Repr

/-- A suspended region erase (R145). -/
structure SuspendedErase where
  region : Region
  cause : EraseCause
  remaining : Nat
  deriving DecidableEq, Repr

/-- The console store operations (R152). -/
inductive StoreOp where
  | collect (sequence : Nat)
  | eraseRegion (region : Nat)
  | protectV (region : Nat) (setting : Bool)
  | protectNv (region : Nat)
  | clearNvAll
  | lockNv
  | writeConfig
  | checkStore
  deriving DecidableEq, Repr

/-- A BUSY store-operation slot: its operation, and whether it waits for the engine (R152). -/
structure StoreSlot where
  op : StoreOp
  waiting : Bool
  deriving DecidableEq, Repr

/-- The phases of a configuration write (R165, R166). The manual names RECEIVING and WAITING; `programming` is the
model's name, which STATUS shows, for a write whose programs run. DESIGN CHOICE, log entry 63. -/
inductive WritePhase where
  | receiving | waiting | programming
  deriving DecidableEq, Repr

/-- A configuration write: its phase, the expected length and the segments of its buffer in order (R165). -/
structure ConfigWrite where
  phase : WritePhase
  expected : Nat
  segments : List (List Byte)
  deriving DecidableEq, Repr

/-- The Record Store (R137 to R168). `blocked`: the last ring advance found no region; `exhausted`: the log is
blocked at its highest sequence (R146). `region0Written` is the state of region 0 (R165). The V flags are those of the
default table until ENTER_LISTEN loads the configuration's (R168, R202). DESIGN CHOICE, log entry 26. -/
structure Store where
  regions : Vector RegionEntry 16 := Vector.replicate 16 {}
  openRegion : Region := 1
  region0Written : Bool := false
  queue : List QueueEntry := []
  engine : EngineOp := .idle
  remaining : Nat := 0
  suspended : Option SuspendedErase := none
  blocked : Bool := false
  exhausted : Bool := false
  startCount : Nat := 1
  slot : Option StoreSlot := none
  configWrite : Option ConfigWrite := none
  writeTimer : Option Nat := none
  vFlags : Bits16 := 0x8001
  lock : Bool := false
  deriving DecidableEq, Repr

/-- The flash, as (address, byte) pairs with rising addresses and no erased byte, and the protection row that
holds the N flags (R137, R156). -/
structure Flash where
  cells : List Host.Cell
  nFlags : Bits16
  deriving DecidableEq, Repr

/-! ### The Console Service -/

/-- A SEG note's fields (R197). `stream` numbers the stream it belongs to (the model's own). -/
structure SegNote where
  stream : Nat
  tag : Nat
  recordFirst : Bool
  recordLast : Bool
  badCheck : Bool
  bytes : List Byte
  deriving DecidableEq, Repr

/-- The outcomes of a log stream (R198). -/
inductive StreamOutcome where
  | complete | empty | badStop | cut | shockCut | overtaken
  deriving DecidableEq, Repr

/-- A STREAM-END note's fields (R198). -/
structure StreamEndNote where
  tag : Nat
  outcome : StreamOutcome
  sent : Nat
  bad : Nat
  lastSequence : Option Nat
  deriving DecidableEq, Repr

/-- Where a record stands: its region and offset (R196). -/
structure Position where
  region : Region
  offset : Nat
  deriving DecidableEq, Repr

/-- The end of a stream (R196). -/
inductive StreamLimit where
  | toNewest (sequence : Nat)
  | count (left : Nat)
  deriving DecidableEq, Repr

/-- The record in hand and the index of its next SEG (R196). -/
structure InHand where
  bytes : List Byte
  index : Nat
  deriving DecidableEq, Repr

/-- The state of a stream in progress (R196). `again` holds displaced SEG notes (R197). -/
structure Stream where
  serial : Nat
  tag : Nat
  next : Option Position
  last : Option Position
  limit : StreamLimit
  checkStop : Bool
  inHand : Option InHand
  again : List SegNote
  queued : Nat
  sent : Nat
  bad : Nat
  lastSequence : Option Nat
  ending : Option StreamOutcome
  deriving DecidableEq, Repr

/-- The Console Service (R188 to R200). `resetReplyLost`: the owed REPLY was displaced; `endsOwed`: displaced
STREAM-END notes; `asksWaiting`: the ASKs of topic IDENTITY, by index and part, whose read waits for an erase
(R192). The mask is the default table's, empty, from a reset until ENTER_LISTEN loads the configuration, and in
STRAP_FAULT, where none is read; R200 gives the record's mask or the default table's. DESIGN CHOICE, log entry 26. -/
structure Console where
  conditions : Bits16 := 0
  mask : Bits16 := 0
  inhibited : Bool := false
  stream : Option Stream := none
  serial : Nat := 0
  resetOwed : Bool := false
  resetReplyLost : Bool := false
  endsOwed : List StreamEndNote := []
  asksWaiting : List (Nat × Nat) := []
  deriving DecidableEq, Repr

/-! ### Notes the part sends -/

/-- Reasons for which the console is refused (section 3.3); `guarded` is PROTECTED. -/
inductive RefusalReason where
  | badValue | notRole | busy | state | held | badRegion | locked | guarded | openRegion | uncollected
  | notBlank | timeout
  deriving DecidableEq, Repr

/-- The result of a REPLY or STORE-DONE. -/
inductive Result where
  | done
  | refused (reason : RefusalReason)
  deriving DecidableEq, Repr

/-- The state of the configuration record that CHECK-STORE finds (R153). -/
inductive ConfigState where
  | good | bad | blank
  deriving DecidableEq, Repr

/-- The values a STORE-DONE carries (R148, R153, R167). -/
inductive StoreValues where
  | none
  | region (r : Nat)
  | flag (r : Nat) (value : Bool)
  | count (n : Nat)
  | segments (n : Nat)
  | check (good bad : Nat) (config : ConfigState)
  deriving DecidableEq, Repr

/-- The values a command's REPLY carries (R194). -/
inductive ReplyValues where
  | none
  | strings (results : Vector StringResult 6) (enabled : Vector Bool 6)
  | remaining (conditions : Bits16)
  | tag (t : Nat)
  deriving DecidableEq, Repr

/-- The content of topic STATUS, in the order of R193: the part's fields, the Record Store's (R154, R167) and
the Link Interface's (R186), and the log stream's tag. -/
structure StatusContent where
  role : Role
  station : Station
  phase : Phase
  deferred : Bool
  shock : ShockState
  episodeCount : Nat
  startCount : Nat
  engine : EngineOp
  remaining : Nat
  suspended : Bool
  openRegion : Region
  fill : Nat
  oldest : Option Nat
  newest : Option Nat
  dropEntries : Nat
  ordinaryEntries : Nat
  blocked : Bool
  slot : Option StoreOp
  vFlags : Bits16
  nFlags : Bits16
  lock : Bool
  hold : Bool
  protectedRegions : List Region
  region0Written : Bool
  write : Option (WritePhase × Nat)
  urgentNotes : Nat
  ordinaryNotes : Nat
  buffered : Option Kind
  stream : Option Nat
  deriving DecidableEq, Repr

/-- The content of topic ZONES (R81). -/
structure ZoneContent where
  zone : Zone
  result : StringResult
  groupA : Nat
  groupB : Nat
  mode : AmbientMode
  ambient : Nat
  mean : Option Nat
  shockFader : Nat
  granted : Nat
  effective : Nat
  demandSum : Nat
  appliedSum : Nat
  deriving DecidableEq, Repr

/-- The content of topic EPISODE (R119, R135). -/
structure EpisodeContent where
  state : ShockState
  count : Nat
  calmOwed : Bool
  checkPending : Bool
  episode : Option Episode
  closed : Option Episode
  fallWindow : Option Nat
  checking : Option Nat
  coordinator : Coordinator
  deriving DecidableEq, Repr

/-- The content of a topic, as its fields in the order of R193. The REPLY carries the bytes of one part of it
(R192), which `partBytes` cuts from the content's bytes. -/
inductive TopicContent where
  | status (c : StatusContent)
  | roster (r : Roster) (slot : Option Slot) (waitList : List Waiter)
  | peer (p : Peer)
  | zone (c : ZoneContent)
  | episode (c : EpisodeContent)
  | conditions (set mask : Bits16) (inhibited streaming consoleSilent : Bool)
  | guard (capture : Option Capture) (count : Nat) (overflow : Bool)
  | identity (bytes : List Byte)
  deriving DecidableEq, Repr

/-- What an ASK is answered with: up to 12 bytes of content, or a refusal (R192). -/
inductive AskAnswer where
  | done (bytes : List Byte)
  | refused (reason : RefusalReason)
  deriving DecidableEq, Repr

/-- The notes the part sends, with their payloads. `ask` is the REPLY to an ASK, `reply` the REPLY to a
command. -/
inductive NoteBody where
  | fall (count fallTime : Nat)
  | impact (count impacts magnitude : Nat) (axis : Axis)
  | lost
  | fault (cause : FaultCause)
  | calm (episode : Nat) (reason : CloseReason) (settled : Nat) (unsettled : List Station)
  | roster (r : Roster)
  | letGo (kind : LetGoKind)
  | releaseNo (reason : ReleaseReason)
  | releaseWait (position : Nat)
  | taken (version : Nat)
  | drained (current : Nat)
  | gone
  | releaseAsk (origin : Origin)
  | settled (b : SettledNote)
  | beacon (b : Beacon)
  | ask (topic : Field Topic) (index part parts : Nat) (answer : AskAnswer)
  | reply (command : Kind) (result : Result) (values : ReplyValues)
  | storeDone (op : Kind) (result : Result) (values : StoreValues)
  | seg (s : SegNote)
  | streamEnd (e : StreamEndNote)
  | attention (set mask : Bits16) (role : Role)
  deriving DecidableEq, Repr

/-- The kind of a note (R183). -/
def NoteBody.kind : NoteBody → Kind
  | .fall .. => .fall
  | .impact .. => .impact
  | .lost => .lost
  | .fault _ => .fault
  | .calm .. => .calm
  | .roster _ => .roster
  | .letGo _ => .letGo
  | .releaseNo _ => .releaseNo
  | .releaseWait _ => .releaseWait
  | .taken _ => .taken
  | .drained _ => .drained
  | .gone => .gone
  | .releaseAsk _ => .releaseAsk
  | .settled _ => .settled
  | .beacon _ => .beacon
  | .ask .. => .reply
  | .reply .. => .reply
  | .storeDone .. => .storeDone
  | .seg _ => .seg
  | .streamEnd _ => .streamEnd
  | .attention .. => .attention

/-- A note of the outgoing queue (R170, R174); the sender is the station itself. -/
structure Note where
  target : Target
  body : NoteBody
  deriving DecidableEq, Repr

/-- The transmit buffer's note, and whether it has started (R174). -/
structure TxBuffer where
  note : Note
  started : Bool
  deriving DecidableEq, Repr

/-- The Link Interface (R169 to R187). -/
structure Link where
  queue : List Note := []
  buffer : Option TxBuffer := none
  beaconTimer : Option Nat := none
  peers : Vector Peer 8 := Vector.replicate 8 {}
  deferred : Bool := false
  capture : Option Capture := none
  violations : Nat := 0
  overflow : Bool := false
  laDrive : Bool := false
  deriving DecidableEq, Repr

/-! ### The part -/

/-- The part's phase, straps as read, reset cause, outcome of the configuration test, ms since start and
listen timer (R201 to R204), and whether the always-on supply is present. -/
structure Sys where
  powered : Bool
  phase : Phase
  role : Role
  station : Station
  cause : ResetCause
  configRefused : Option ConfigRefusal
  clock : Nat
  listenTimer : Option Nat
  deriving DecidableEq, Repr

/-- The levels on the part's pins, and the readings its sensors would give: they follow the world and no reset
changes them (section 12.4). `laOthers`: some other station drives LA; `headroomLow`: the comparator's
report of each string (R88). -/
structure Pins where
  roleStrap : Fin 4
  addrStrap : Station
  resetLow : Bool
  hold : Bool
  present : Bool
  lever : Bool
  adapter : Bool
  laOthers : Bool
  load : Nat
  packCharge : Nat
  headroomLow : Vector Bool 6
  deriving DecidableEq, Repr

/-- A reset roster record (R20): the adapter as its sense line stands. -/
def rosterReset (adapter : Bool) : Roster where
  version := 1
  epoch := 0
  adapter := adapter
  load := 0
  allowance := if adapter then 1500 else 0
  leaving := none
  entries := []

/-- The reset Roster Unit (R20, R43). -/
def RosterUnit.reset (adapter : Bool) : RosterUnit where
  record := rosterReset adapter
  slot := none
  waitList := []
  handoverTimer := none
  publishTimer := none

/-- A zone as its configuration gives it (R83). -/
def Zone.ofConfig (c : ZoneConfig) : Zone := { config := c, enabled := c.enabled }

/-- The reset Panel Controller for a configuration (R83). -/
def Panel.reset (c : Configuration) : Panel := { zones := c.zones.map Zone.ofConfig }

/-- The state of the part: its blocks, its flash, its pins, the counter of free values (the model's own), and
the commands that wait. -/
structure State where
  pending : List Instr
  sys : Sys
  pins : Pins
  config : Configuration
  link : Link
  roster : RosterUnit
  image : Option Image
  bay : Bay
  panel : Panel
  supply : Supply
  shock : Shock
  coord : Coordinator
  store : Store
  flash : Flash
  console : Console
  free : Nat
  deriving DecidableEq, Repr

/-- The part has no fault of its own: no command of the manual stops it. The one reason is kept for a claim
about an address outside the flash. -/
inductive Fault where
  /-- An access outside the 65 536 bytes of flash (R137). Raised by no command, since every address the
  meanings form lies inside; safe. -/
  | outsideFlash
  deriving DecidableEq, Repr

/-- The reasons to refuse a command. -/
inductive Refusal where
  /-- The command has no meaning yet. Raised by `exec` alone; safe. No command is refused. -/
  | notModelled (mnemonic : String)
  deriving DecidableEq, Repr

/-- The state right after a power-on reset (R20, R43, R63, R83, R99, R120, R136, R155, R168, R187, R200, R201)
of a part strapped BASE, station 1, with every flash byte erased, HOLD high and every other line low.
DESIGN CHOICE for the straps, the pins and the flash, log entries 1 and 2. -/
def State.reset : State where
  pending := []
  sys :=
    { powered := true, phase := .start, role := .base, station := 1, cause := .powerOn, configRefused := none,
      clock := 0, listenTimer := none }
  pins :=
    { roleStrap := 0, addrStrap := 1, resetLow := false, hold := true, present := false, lever := false,
      adapter := false, laOthers := false, load := 0, packCharge := 0,
      headroomLow := Vector.replicate 6 false }
  config := Configuration.defaults
  link := {}
  roster := RosterUnit.reset false
  image := none
  bay := {}
  panel := Panel.reset Configuration.defaults
  supply := {}
  shock := {}
  coord := {}
  store := {}
  flash := { cells := [], nFlags := 0 }
  console := {}
  free := 0

end Sys2Proof.Machine
end

