-- ==== Sys2Proof/Machine/Formats.lean ====
section
/-! DEFINITION. The byte layouts of chapter 12: the 16-bit check, the note header and form test, the ROSTER and
SEG payloads, the configuration record and the log record (R205 to R210). -/

namespace Sys2Proof.Machine

/-! ### The check (R205) -/

/-- One bit of the check register (R205): shift toward the high end, and exclusive-or with 4129 when the bit
shifted out differs from the data bit. -/
def checkBit (r : BitVec 16) (d : Bool) : BitVec 16 :=
  if r.getLsbD 15 != d then (r <<< 1) ^^^ 4129#16 else r <<< 1

/-- One byte of the check, most significant bit first (R205). -/
def checkByte (r : BitVec 16) (b : Byte) : BitVec 16 :=
  [7, 6, 5, 4, 3, 2, 1, 0].foldl (fun r i => checkBit r (b.getLsbD i)) r

/-- The check of the covered bytes (R205). -/
def checkOf (bytes : List Byte) : BitVec 16 := bytes.foldl checkByte 65535#16

/-- The check as it is stored, low byte first (R205). -/
def checkBytes (bytes : List Byte) : List Byte := le16 (checkOf bytes).toNat

/-- The bytes end with the check of the bytes before it (R205). -/
def endsWithCheck (bytes : List Byte) : Bool :=
  let n := bytes.length - 2
  bytes.length ≥ 2 && bytes.drop n == checkBytes (bytes.take n)

/-! ### Codes of the ROSTER payload (R207) -/

/-- The allowance code (R207). -/
def allowanceCode (ma : Nat) : Nat :=
  if ma = 375 then 1 else if ma = 500 then 2 else if ma = 675 then 3 else if ma = 900 then 4
  else if ma = 1200 then 5 else if ma = 1500 then 6 else 0

/-- The allowance of a code; code 7 fails the form test (R207). -/
def allowanceOf (code : Nat) : Option Nat := [0, 375, 500, 675, 900, 1200, 1500][code]?

/-- The state codes of an entry (R207). -/
def entryStates : List EntryState := [.seated, .ready, .carrying, .releasing, .freed, .lost, .faulted]

/-- The code of an entry's state (R207). -/
def EntryState.code : EntryState → Nat
  | .seated => 0 | .ready => 1 | .carrying => 2 | .releasing => 3 | .freed => 4 | .lost => 5
  | .faulted => 6

/-- The code of a voltage band (R207). -/
def voltageCode : VoltageBand → Nat
  | .low => 0 | .mid => 1 | .high => 2

/-- The code of a temperature band (R207). -/
def tempCode : TempBand → Nat
  | .normal => 0 | .warm => 1 | .hot => 2

/-- The three bytes of a bay entry, as numbers (R207). -/
def entryNumbers (e : Entry) : List Nat :=
  [e.station.val + 8 * EntryState.code e.state + 64 * tempCode e.temperature,
   e.weight + 32 * voltageCode e.voltage + 128 * e.silent.toNat,
   e.charge + 128 * e.held.toNat]

/-- The bytes of a ROSTER payload, as numbers (R207). -/
def rosterNumbers (r : Roster) : List Nat :=
  [r.version % 256, r.version / 256, r.epoch, r.load % 256, r.load / 256,
   r.adapter.toNat + 2 * allowanceCode r.allowance + 16 * r.entries.length,
   match r.leaving with | some k => k.val | none => 0]
  ++ r.entries.flatMap entryNumbers

/-- The payload of a ROSTER note (R207). -/
def rosterPayload (r : Roster) : List Byte := (rosterNumbers r).map (BitVec.ofNat 8)

end Sys2Proof.Machine

namespace Sys2Proof

/-- FREE VALUE. The bytes of a topic's content where the manual gives its fields and their order, not their bytes
(R193). DESIGN CHOICE, log entry 29, safe. -/
opaque Config.topicBytes : Machine.TopicContent → List Byte

/-- FREE VALUE. The bytes of the handover slot and the release wait list in topic ROSTER (R193).
DESIGN CHOICE, log entry 29, safe. -/
opaque Config.slotBytes : Option Machine.Slot → List Machine.Waiter → List Byte

end Sys2Proof

namespace Sys2Proof.Machine

/-! ### The bytes of a REPLY to an ASK (R192, R193) -/

/-- The fewest parts a topic's content fits in, by the fields its rule gives (R192, R193): the roster record alone
has up to 16 bytes (R207), and the fields of STATUS, ZONES and EPISODE hold more than 96 bits. DEDUCED, log entry
4. -/
def leastParts : Topic → Nat
  | .status | .roster | .zones | .episode => 2
  | .peers | .conditions | .guard | .identity => 1

/-- The number of parts of a topic for a role (R192): one for IDENTITY, whose 12 bytes fill a part, and for the others,
whose layouts are not given, free from the fewest their fields fit in up to 16, since a part is 0..15.
DESIGN CHOICE, log entry 4. -/
def partsOf (t : Topic) (r : Role) : Nat :=
  if t = .identity then 1 else leastParts t + Config.moreParts t r % (17 - leastParts t)

/-- The bytes of a topic's content, which fills no more than its parts: the roster record in the form of R207, region
15 as it stands (R1, R192, R193). DESIGN CHOICE for the others, log entry 29. -/
def contentBytes (parts : Nat) : TopicContent → List Byte
  | .roster r slot waitList =>
    rosterPayload r ++ (Config.slotBytes slot waitList).take (12 * parts - (rosterPayload r).length)
  | .identity bytes => bytes
  | c => (Config.topicBytes c).take (12 * parts)

/-- The up to 12 bytes of a part, counted from 0, of a content of that many parts (R192). -/
def partBytes (parts : Nat) (c : TopicContent) (part : Nat) : List Byte :=
  ((contentBytes parts c).drop (12 * part)).take 12

/-! ### Reading a ROSTER payload (R207) -/

/-- A station 1..7 (R207). -/
def stationOf (n : Nat) : Option Station := if h : 1 ≤ n ∧ n < 8 then some ⟨n, h.2⟩ else none

/-- A bay entry from its three bytes; none where a field fails the form test (R207). A station of 0 is taken to
fail it too, DEDUCED, log entry 35. -/
def parseEntry (b0 b1 b2 : Nat) : Option Entry :=
  match stationOf (b0 % 8), entryStates[b0 / 8 % 8]?, [TempBand.normal, .warm, .hot][b0 / 64]?,
    [VoltageBand.low, .mid, .high][b1 / 32 % 4]? with
  | some k, some st, some t, some v =>
    if b1 % 32 ≤ 16 && b2 % 128 ≤ 100 then
      some { station := k, state := st, weight := b1 % 32, charge := b2 % 128, voltage := v,
             temperature := t, silent := b1 / 128 == 1, held := b2 / 128 == 1 }
    else none
  | _, _, _, _ => none

/-- The entries of a ROSTER payload (R207). -/
def parseEntries : List Nat → Option (List Entry)
  | [] => some []
  | b0 :: b1 :: b2 :: rest =>
    match parseEntry b0 b1 b2, parseEntries rest with
    | some e, some es => some (e :: es)
    | _, _ => none
  | _ => none

/-- A roster record from the numbers of a payload; none where it fails the form test (R207). -/
def parseRosterNumbers : List Nat → Option Roster
  | v0 :: v1 :: ep :: l0 :: l1 :: flags :: lv :: rest =>
    match allowanceOf (flags / 2 % 8), parseEntries rest with
    | some ma, some es =>
      if es.length = flags / 16 % 4 ∧ lv < 8 then
        some { version := v0 + 256 * v1, epoch := ep, adapter := flags % 2 == 1, load := l0 + 256 * l1,
               allowance := ma, leaving := stationOf lv, entries := es }
      else none
    | _, _ => none
  | _ => none

/-- The form test of a ROSTER payload and its record (R207). -/
def parseRoster (payload : List Byte) : Option Roster := parseRosterNumbers (payload.map BitVec.toNat)

/-! ### Note header and form test (R206, R207, R208) -/

/-- Every kind, in the order of R183. -/
def Kind.all : List Kind :=
  [.fall, .impact, .lost, .fault, .calm, .roster, .letGo, .releaseNo, .releaseWait, .taken, .drained,
   .gone, .releaseAsk, .settled, .beacon, .ask, .setLevel, .releaseBay, .testStrings, .resetStation,
   .attentionResume, .setMask, .readLog, .stopStream, .collect, .eraseRegion, .protectV, .protectNv,
   .clearNvAll, .lockNv, .writeConfig, .checkStore, .reply, .storeDone, .seg, .streamEnd, .attention]

/-- The kind of a code (R206). -/
def kindOfCode (n : Nat) : Option Kind := Kind.all.find? fun k => k.code == n

/-- The target byte (R206). -/
def targetByte : Target → Nat
  | .station n => n.val
  | .all => 15

/-- A target byte that the form test admits (R206). -/
def targetOk (n : Nat) : Bool := n < 8 || n == 15

/-- The payload tests of the form test that the manual gives byte by byte (R207, R208). -/
def payloadOk (k : Kind) (payload : List Byte) : Bool :=
  match k with
  | .roster => (parseRoster payload).isSome
  | .seg => 3 ≤ payload.length
  | _ => true

/-- The form test of R171 on the bytes of a note: kind code, sender, target, payload length, payload, check
(R206, R207, R208). A sender byte above 7 fails it, as a value that the table of R206 does not give. DEDUCED, log entry
90. -/
def formTest (bytes : List Byte) : Bool :=
  match bytes with
  | k :: sender :: target :: len :: rest =>
    match kindOfCode k.toNat with
    | none => false
    | some kind =>
      sender.toNat < 8 && targetOk target.toNat && len.toNat ≤ 16 && rest.length == len.toNat + 2
        && payloadOk kind (rest.take len.toNat) && endsWithCheck bytes
  | _ => false

/-- The kind, sender and target of a note's header, as bytes that pass the form test give them (R206). -/
def noteHeader : List Byte → Option (Kind × Station × Target)
  | k :: sender :: target :: _ =>
    (kindOfCode k.toNat).map fun kind =>
      (kind, Fin.ofNat 8 sender.toNat,
        if target.toNat < 8 then .station (Fin.ofNat 8 target.toNat) else .all)
  | _ => none

/-- The bytes of a note around its payload (R206). -/
def noteBytes (k : Kind) (sender : Station) (target : Target) (payload : List Byte) : List Byte :=
  let covered := ([k.code, sender.val, targetByte target, payload.length].map (BitVec.ofNat 8)) ++ payload
  covered ++ checkBytes covered

/-- The payload of a SEG note (R208). -/
def segPayload (s : SegNote) : List Byte :=
  [BitVec.ofNat 8 s.tag,
   BitVec.ofNat 8 (s.recordFirst.toNat + 2 * s.recordLast.toNat + 4 * s.badCheck.toNat)] ++ s.bytes

/-! ### The configuration record (R209) -/

/-- The byte at an offset of the configuration record. -/
def byteAt (bytes : List Byte) (k : Nat) : Nat := (bytes.getD k 0).toNat

/-- The two-byte number at an offset. -/
def wordAt (bytes : List Byte) (k : Nat) : Nat := byteAt bytes k + 256 * byteAt bytes (k + 1)

/-- The four-byte number at an offset. -/
def longAt (bytes : List Byte) (k : Nat) : Nat := wordAt bytes k + 65536 * wordAt bytes (k + 2)

/-- A zone's two bytes; none where a value is out of range (R209). -/
def parseZone (base attr : Nat) : Option ZoneConfig :=
  match [Group.a, .b, .none][attr % 4]? with
  | some g =>
    if base ≤ 250 && attr < 64 then
      some { base := base, group := g, curve := if attr / 4 % 2 = 1 then .square else .linear,
             sheddable := attr / 8 % 2 == 1, masked := attr / 16 % 2 == 1, enabled := attr / 32 % 2 == 0 }
    else none
  | none => none

/-- The curve's lux values rise strictly and its fader values do not fall (R67, R209). -/
def curveOk : List (Nat × Nat) → Bool
  | (l0, f0) :: (l1, f1) :: rest => l0 < l1 && f0 ≤ f1 && curveOk ((l1, f1) :: rest)
  | _ => true

/-- The eight points of the ambient curve (R209). -/
def parseCurve (bytes : List Byte) : List (Nat × Nat) :=
  (List.range 8).map fun i => (longAt bytes (20 + 5 * i), byteAt bytes (24 + 5 * i))

/-- The six zones of the record, where each is in range (R209). -/
def parseZones (bytes : List Byte) : Option (Vector ZoneConfig 6) :=
  match parseZone (byteAt bytes 8) (byteAt bytes 9), parseZone (byteAt bytes 10) (byteAt bytes 11),
    parseZone (byteAt bytes 12) (byteAt bytes 13), parseZone (byteAt bytes 14) (byteAt bytes 15),
    parseZone (byteAt bytes 16) (byteAt bytes 17), parseZone (byteAt bytes 18) (byteAt bytes 19) with
  | some z0, some z1, some z2, some z3, some z4, some z5 => some #v[z0, z1, z2, z3, z4, z5]
  | _, _, _, _, _, _ => none

/-- The fields of the record, where each lies in its range (R209). -/
def parseFields (bytes : List Byte) : Option Configuration :=
  match parseZones bytes, [BoostMode.pass, .boost, .auto][byteAt bytes 60]?,
    [200, 300, 400][byteAt bytes 61]? with
  | some zones, some mode, some level =>
    let c : Configuration :=
      { freeFallThreshold := byteAt bytes 2, fallTime := byteAt bytes 3, impactThreshold := byteAt bytes 4,
        reserve := byteAt bytes 5, letGoCurrent := wordAt bytes 6, zones := zones,
        curve := parseCurve bytes, boostMode := mode, headroomLevel := level,
        mask := BitVec.ofNat 16 (wordAt bytes 62), vDefaults := BitVec.ofNat 16 (wordAt bytes 64) }
    if 1 ≤ c.freeFallThreshold && c.freeFallThreshold ≤ 31 && 16 ≤ c.fallTime && c.fallTime ≤ 200
        && 48 ≤ c.impactThreshold && c.reserve ≤ 50 && 20 ≤ c.letGoCurrent && c.letGoCurrent ≤ 1000
        && c.curve.all (fun p => p.1 ≤ 120000) && curveOk c.curve then
      some c
    else none
  | _, _, _ => none

/-- The test of the configuration record at START, in the order of R209. `blank`: region 0 is BLANK. -/
def testConfig (blank : Bool) (bytes : List Byte) : Except ConfigRefusal Configuration :=
  if blank then .error .blank
  else if byteAt bytes 0 ≠ 49 ∨ byteAt bytes 1 ≠ 68 then .error .format
  else if !endsWithCheck (bytes.take 68) then .error .check
  else match parseFields bytes with
    | some c => .ok c
    | none => .error .range

/-! ### Log records (R140, R210) -/

/-- A record's kind and length are bounded by its header (R210). -/
def recordHeader (kind length sequence startCount seconds : Nat) : List Byte :=
  [BitVec.ofNat 8 (128 + kind), BitVec.ofNat 8 length] ++ le32 sequence ++ le16 startCount ++ le32 seconds

/-- The bytes of a record as they are programmed, the collected mark absent (R140, R210). The seconds are the low 32
bits of the count. DESIGN CHOICE, log entry 61. -/
def recordBytes (kind sequence startCount seconds : Nat) (body : List Byte) : List Byte :=
  let covered := recordHeader kind (14 + body.length) sequence startCount seconds ++ body
  covered ++ checkBytes covered

/-- The bytes with bit 7 of byte 0 taken as 1, as the check takes them (R205). -/
def asUnmarked : List Byte → List Byte
  | b :: bs => (b ||| 128#8) :: bs
  | [] => []

/-- A good record: its check holds (R140, R205). -/
def recordGood (bytes : List Byte) : Bool := endsWithCheck (asUnmarked bytes)

/-- The kind code of a record (R210). -/
def recordKind (bytes : List Byte) : Nat := byteAt bytes 0 % 8

/-- A DROP record (R210). -/
def recordIsDrop (bytes : List Byte) : Bool := recordKind bytes == 2

/-- The collected mark is absent while bit 7 of byte 0 is 1 (R210). -/
def markAbsent (bytes : List Byte) : Bool := byteAt bytes 0 ≥ 128

/-- The sequence of a record (R210). -/
def recordSequence (bytes : List Byte) : Nat := longAt bytes 2

/-- The start count of a record (R210). -/
def recordStartCount (bytes : List Byte) : Nat := wordAt bytes 6

/-- The walk of R149 reads a header here: the kind is 1..6, bits 3..6 are 0, the length lies in 14..40. -/
def headerOk (b0 length : Nat) : Bool :=
  1 ≤ b0 % 8 && b0 % 8 ≤ 6 && b0 / 8 % 16 == 0 && 14 ≤ length && length ≤ 40

end Sys2Proof.Machine
end

