-- ==== Sys2Proof/Machine/Ops.lean ====
section
/-! DEFINITION. The named operations the meanings share: who is awake, the flash and its canonical form, the
protected regions, the region table's figures, and the levels on the part's lines. -/

namespace Sys2Proof.Machine

/-! ### Phase and role -/

/-- The part runs: the always-on supply is present and RESETn is high (R201). -/
def State.active (s : State) : Bool := s.sys.powered && !s.pins.resetLow

/-- LISTEN or RUNNING: the part hears notes and takes samples (R100, R203). -/
def State.awake (s : State) : Bool := s.active && (s.sys.phase == .listen || s.sys.phase == .running)

/-- RUNNING (R204). -/
def State.running (s : State) : Bool := s.active && s.sys.phase == .running

/-- LISTEN (R203). -/
def State.listening (s : State) : Bool := s.active && s.sys.phase == .listen

/-- The part is strapped to a role and awake in it. -/
def State.plays (s : State) (r : Role) : Bool := s.awake && s.sys.role == r

/-- The Roster Unit builds a roster: a BASE, awake, not DEFERRED (R15, R16). -/
def State.rosterActive (s : State) : Bool := s.plays .base && !s.link.deferred

/-- The Roster Unit publishes: a BASE in RUNNING, not DEFERRED (R12, R14, R16). -/
def State.publishing (s : State) : Bool := s.rosterActive && s.sys.phase == .running

/-- The shock hold is in force (R60). -/
def State.shockHold (s : State) : Bool := s.shock.state != .calm

/-! ### Flash (R137, R156) -/

/-- The erased byte, which an unlisted address reads as (R210). -/
def erasedByte : Byte := 255#8

/-- The byte at an address. -/
def flashByte (cells : List Host.Cell) (a : Nat) : Byte :=
  match cells.find? fun c => c.1 == a with
  | some c => c.2
  | none => erasedByte

/-- The cells with the byte at `a` set, in canonical form: the erased byte is not listed. -/
def flashSet (cells : List Host.Cell) (a : Nat) (b : Byte) : List Host.Cell :=
  match cells with
  | [] => if b = erasedByte then [] else [(a, b)]
  | c :: rest =>
    if c.1 < a then c :: flashSet rest a b
    else
      let above := if c.1 = a then rest else c :: rest
      if b = erasedByte then above else (a, b) :: above

/-- The addresses rise strictly from a bound. -/
def risingFrom : Nat → List Host.Cell → Bool
  | _, [] => true
  | n, c :: rest => n ≤ c.1 && risingFrom (c.1 + 1) rest

/-- The canonical form of the flash: addresses rising, inside the flash, no erased byte listed. -/
def Flash.wf (f : Flash) : Bool :=
  risingFrom 0 f.cells && f.cells.all fun c => c.1 < 65536 && c.2 != erasedByte

/-- Programming a byte changes bits only from erased 1 to 0 (R137). -/
def flashProgram (cells : List Host.Cell) (a : Nat) (b : Byte) : List Host.Cell :=
  flashSet cells a (flashByte cells a &&& b)

/-- Programming bytes from an address on. -/
def flashProgramAll (cells : List Host.Cell) (a : Nat) : List Byte → List Host.Cell
  | [] => cells
  | b :: bs => flashProgramAll (flashProgram cells a b) (a + 1) bs

/-- The first address of a region (R137). -/
def regionBase (r : Region) : Nat := r.val * Config.regionSize

/-- The bank of a region (R137). -/
def bankOf (r : Region) : Nat := r.val / 8

/-- The address lies in the region. -/
def inRegion (r : Region) (a : Nat) : Bool := a / Config.regionSize == r.val

/-- Erasing a region returns each of its bytes to the erased state (R137). -/
def flashErase (cells : List Host.Cell) (r : Region) : List Host.Cell :=
  cells.filter fun c => !inRegion r c.1

/-- Every byte of the region is erased (R149, R165). -/
def regionErased (cells : List Host.Cell) (r : Region) : Bool := !cells.any fun c => inRegion r c.1

/-- Bytes read from an address on. -/
def flashRead (cells : List Host.Cell) (a : Nat) : Nat → List Byte
  | 0 => []
  | n + 1 => flashByte cells a :: flashRead cells (a + 1) n

/-- Replace the cells. -/
def State.setCells (s : State) (cells : List Host.Cell) : State := { s with flash := { s.flash with cells := cells } }

/-! ### The log ring and the walk of a region (R137, R149) -/

/-- The regions of the log ring, 1..14 (R137). -/
def ringRegions : List Region := [1, 2, 3, 4, 5, 6, 7, 8, 9, 10, 11, 12, 13, 14]

/-- A region of the log ring. -/
def inRing (r : Region) : Bool := r != 0 && r != 15

/-- The records from an offset on, as (offset, bytes), and the fill offset the walk finds (R149). The first
argument bounds the walk; a region holds at most 292 records (R137). -/
def walkFrom (cells : List Host.Cell) (base : Nat) : Nat → Nat → List (Nat × List Byte) × Nat
  | 0, _ => ([], Config.regionSize)
  | n + 1, off =>
    if off ≥ Config.regionSize then ([], Config.regionSize)
    else
      let b0 := flashByte cells (base + off)
      let length := (flashByte cells (base + off + 1)).toNat
      if b0 = erasedByte then ([], off)
      else if !headerOk b0.toNat length || off + length > Config.regionSize then ([], Config.regionSize)
      else
        let rest := walkFrom cells base n (off + length)
        ((off, flashRead cells (base + off) length) :: rest.1, rest.2)

/-- The walk of a region from offset 0 (R149). -/
def walkRegion (cells : List Host.Cell) (r : Region) : List (Nat × List Byte) × Nat :=
  walkFrom cells (regionBase r) 293 0

/-- The offset behind the last record that the walk of a region finds (R149). -/
def walkEnd (cells : List Host.Cell) (r : Region) : Nat :=
  match (walkRegion cells r).1.getLast? with
  | some p => p.1 + p.2.length
  | none => 0

/-- The walk of a region ends at a garbled header or a damaged tail, not at an erased byte or the region's end
(R149). -/
def tailDamaged (cells : List Host.Cell) (r : Region) : Bool :=
  walkEnd cells r < Config.regionSize && flashByte cells (regionBase r + walkEnd cells r) != erasedByte

/-- What the start scan finds in a region whose erase was cut: an erased first byte, a garbled header or a damaged
tail (R149). -/
def showsCutErase (cells : List Host.Cell) (r : Region) : Bool :=
  flashByte cells (regionBase r) == erasedByte || tailDamaged cells r

/-! ### Flash cut in its work (R142, R144, R150, R155, R164, R166) -/

/-- Bytes whose programming is cut: each bit that was to become 0 has become 0, unless the free mask says it had
not yet. -/
def cutProgram (cells : List Host.Cell) (n a : Nat) : List Byte → List Host.Cell
  | [] => cells
  | b :: bs => cutProgram (flashProgram cells a (b ||| Config.cutMask n a)) n (a + 1) bs

/-- The check of the configuration record in region 0 holds (R166, R209). -/
def configWhole (cells : List Host.Cell) : Bool := endsWithCheck (flashRead cells 0 Config.configLength)

/-- The flash with bits of one byte turned over. -/
def flashFlip (cells : List Host.Cell) (a : Nat) (bits : Byte) : List Host.Cell :=
  flashSet cells a (flashByte cells a ^^^ bits)

/-- A record whose program is cut: it has its header, and its check fails (R142, R149, R155). Where the free masks
would leave its check good, the lowest bit of its last byte is turned over, which no check covers.
DESIGN CHOICE, log entry 5. -/
def cutRecord (cells : List Host.Cell) (n a : Nat) (bytes : List Byte) : List Host.Cell :=
  let header := flashProgramAll cells a (bytes.take 12)
  let cut := cutProgram header n (a + 12) (bytes.drop 12)
  if recordGood (flashRead cut a bytes.length) then flashFlip cut (a + bytes.length - 1) 1#8 else cut

/-- The segment of a configuration program that is cut: region 0 is left with part of the record, its check bad
(R166). Where the free masks would leave region 0 blank or its check good, the lowest bit of the segment's first
byte is turned over. DESIGN CHOICE, log entry 5. -/
def cutConfig (cells : List Host.Cell) (n off : Nat) (segment : List Byte) : List Host.Cell :=
  let cut := cutProgram cells n off segment
  if !segment.isEmpty && (regionErased cut 0 || configWhole cut) then flashFlip cut off 1#8 else cut

/-- Each byte of a region has regained the bits of the free mask. -/
def partErased (cells : List Host.Cell) (n : Nat) (r : Region) : List Host.Cell :=
  cells.filterMap fun c =>
    if inRegion r c.1 then
      let b := c.2 ||| Config.cutMask n c.1
      if b = erasedByte then none else some (c.1, b)
    else some c

/-- A region that is neither whole nor blank, from one: of several programmed bytes the first is erased, one alone
changes its value, and a region without one gains one. -/
def spoilRegion (cells : List Host.Cell) (r : Region) : List Host.Cell :=
  match cells.filter fun c => inRegion r c.1 with
  | [] => flashSet cells (regionBase r) 0
  | [c] => flashSet cells c.1 (if c.2 = 0 then 1 else 0)
  | c :: _ => flashSet cells c.1 erasedByte

/-- A region that is neither whole nor blank (R144): each byte has regained the bits of the free mask, unless that
would leave it whole or blank. DESIGN CHOICE, log entry 5. -/
def halfErased (cells : List Host.Cell) (n : Nat) (r : Region) : List Host.Cell :=
  let part := partErased cells n r
  if regionErased part r || part == cells then spoilRegion cells r else part

/-- A region whose erase is cut is neither whole nor blank (R144, R164). One of the log ring shows the start scan an
erased first byte, a garbled header or a damaged tail (R149): where it would show none of them, its first byte is
erased. The check of region 0's record is bad: where it would hold, a bit of its last byte is turned over.
DESIGN CHOICE, log entry 5. -/
def cutErase (cells : List Host.Cell) (n : Nat) (r : Region) : List Host.Cell :=
  let half := halfErased cells n r
  if inRing r then if showsCutErase half r then half else flashSet half (regionBase r) erasedByte
  else if r == 0 && configWhole half then
    let flipped := flashFlip half 67 1#8
    if flipped == cells then flashFlip half 67 2#8 else flipped
  else half

/-! ### Protected regions (R157, R158) -/

/-- HOLD holds the region: it is low and the region is 0 or 15 (R157). -/
def State.holds (s : State) (r : Region) : Bool := !s.pins.hold && (r == 0 || r == 15)

/-- The region is protected (R158). -/
def State.isProtected (s : State) (r : Region) : Bool :=
  s.store.vFlags.getLsbD r.val || s.flash.nFlags.getLsbD r.val || s.holds r

/-- The protected regions of the ring, as the ring advance sees them. -/
def State.ringProtection (s : State) : List Bool := ringRegions.map s.isProtected

/-! ### The region table (R137, R142, R150) -/

/-- The table entry of a region. -/
def Store.entry (st : Store) (r : Region) : RegionEntry := st.regions[r]

/-- The store with one table entry changed. -/
def Store.setEntry (st : Store) (r : Region) (e : RegionEntry) : Store :=
  { st with regions := st.regions.set r e }

/-- The highest of some sequences, or none. -/
def maxOf : List (Option Nat) → Option Nat
  | [] => none
  | none :: rest => maxOf rest
  | some n :: rest => match maxOf rest with
    | some m => some (max n m)
    | none => some n

/-- The lowest of some sequences, or none. -/
def minOf : List (Option Nat) → Option Nat
  | [] => none
  | none :: rest => minOf rest
  | some n :: rest => match minOf rest with
    | some m => some (min n m)
    | none => some n

/-- The newest sequence of the log: the highest among the good records of regions 1..14 (R142). -/
def Store.newest (st : Store) : Option Nat := maxOf (ringRegions.map fun r => (st.entry r).last)

/-- The oldest sequence of the log (R150). -/
def Store.oldest (st : Store) : Option Nat := minOf (ringRegions.map fun r => (st.entry r).first)

/-- The sequence the next record gets (R140, R150). -/
def Store.nextSequence (st : Store) : Nat :=
  match st.newest with
  | some n => n + 1
  | none => 1

/-- The log is blocked: by a ring advance that found no region, or at its highest sequence (R146). -/
def Store.isBlocked (st : Store) : Bool := st.blocked || st.exhausted

/-- A region erase of the bank is in progress or suspended (R147). -/
def Store.bankBusy (st : Store) (bank : Nat) : Bool :=
  (match st.engine with
   | .erase r _ => bankOf r == bank
   | _ => false)
  || (match st.suspended with
      | some e => bankOf e.region == bank
      | none => false)

/-! ### Peers -/

/-- The peer table entry of a station (R179). -/
def State.peer (s : State) (k : Station) : Peer := s.link.peers[k]

/-- The state with one peer entry changed. -/
def State.setPeer (s : State) (k : Station) (p : Peer) : State :=
  { s with link := { s.link with peers := s.link.peers.set k p } }

/-- Every station number, ascending. -/
def stations : List Station := [0, 1, 2, 3, 4, 5, 6, 7]

/-- Every zone, ascending. -/
def zones : List ZoneId := [0, 1, 2, 3, 4, 5]

/-- Every region, ascending. -/
def regions : List Region := [0, 1, 2, 3, 4, 5, 6, 7, 8, 9, 10, 11, 12, 13, 14, 15]

/-- The peer holds the role and is not silent. -/
def State.present (s : State) (k : Station) (r : Role) : Bool :=
  (s.peer k).role == some r && !(s.peer k).silent

/-! ### The roster and its image -/

/-- The adapter weight of R1: 16 when the adapter is present, 0 when it is absent. -/
def rosterAdapterWeight (r : Roster) : Nat := if r.adapter then 16 else 0

/-- The entry of a station (R1). -/
def rosterEntry (r : Roster) (k : Station) : Option Entry := r.entries.find? fun e => e.station == k

/-- Any entry is RELEASING (R19). -/
def rosterReleasing (r : Roster) : Bool := r.entries.any fun e => e.state == .releasing

/-- The roster image shows a RELEASING entry; an image that is none shows none (R91). -/
def State.imageReleasing (s : State) : Bool :=
  match s.image with
  | some i => rosterReleasing i.record
  | none => false

/-- The roster image shows the adapter present (R19). -/
def State.imageAdapter (s : State) : Bool :=
  match s.image with
  | some i => i.record.adapter
  | none => false

/-- The roster image names a leaving station (R19). -/
def State.imageLeaving (s : State) : Bool :=
  match s.image with
  | some i => i.record.leaving.isSome
  | none => false

/-- The version of the roster image, 0 when it is none (R62, R98). -/
def State.imageVersion (s : State) : Nat :=
  match s.image with
  | some i => i.record.version
  | none => 0

/-! ### Lines -/

/-- The level of LA: some station drives it (R105, R169). -/
def State.laHigh (s : State) : Bool := s.pins.laOthers || s.link.laDrive

/-- PARK is asserted by a BASE while its shock state is not CALM (R116). -/
def State.park (s : State) : Bool := s.plays .base && s.shockHold

/-- The latch each bay state sets (R47). -/
def latchOf : BayState → Bool
  | .empty | .freed => false
  | .seated | .ready | .carrying | .releasing | .lost | .faulted => true

/-- The LATCH output, locked when true: by the bay state, and locked under the shock hold (R47, R60); locked in
STRAP_FAULT (R201); undriven by another role. Locked in START, and no level (none) while RESETn is low or the supply
is lost: DESIGN CHOICE, log entry 25. -/
def State.latch (s : State) : Option Bool :=
  if !s.active then none
  else match s.sys.phase with
    | .strapFault => some true
    | .start => if s.sys.role = .bay then some true else none
    | .listen | .running =>
      if s.sys.role = .bay then some (s.shockHold || latchOf s.bay.state) else none

/-- The lamp's indications (R59). -/
inductive Lamp where
  | refused | fault | free | pending | dark
  deriving DecidableEq, Repr

/-- The lamp's indication (R59). -/
def State.lamp (s : State) : Lamp :=
  if s.bay.refused.isSome then .refused
  else if s.bay.state = .faulted then .fault
  else if s.bay.state = .freed then (if s.shockHold then .pending else .free)
  else if s.bay.ask ≠ .none || s.bay.state = .releasing then .pending
  else .dark

/-- The shock fader: 255 in CALM, 0 otherwise (R70); a part that is no LID keeps its reset value (R84). -/
def State.shockFader (s : State) : Nat := if s.sys.role == .lid && s.shockHold then 0 else 255

end Sys2Proof.Machine
end

