-- ==== Sys2Proof/Machine/Flags.lean ====
section
/-! DEFINITION. What every block hands to the two common blocks: the attention conditions and the attention
test (R188 to R190), and the outgoing note queue (R174 to R176). -/

namespace Sys2Proof.Machine

/-! ### The outgoing note queue (R174, R175) -/

/-- The urgent kinds (R170). -/
def urgentKind : Kind → Bool
  | .fall | .impact | .lost | .fault => true
  | _ => false

/-- The kind of a note. -/
def Note.kind (n : Note) : Kind := n.body.kind

/-- An urgent note (R170). -/
def Note.urgent (n : Note) : Bool := urgentKind n.kind

/-- The number of urgent entries of a queue. -/
def urgentCount (q : List Note) : Nat := q.countP Note.urgent

/-- The number of ordinary entries of a queue. -/
def ordinaryCount (q : List Note) : Nat := q.countP fun n => !n.urgent

/-- Room for an ordinary note: fewer than 5 ordinary entries and fewer than 6 entries (R175, R197). -/
def roomOrdinary (q : List Note) : Bool :=
  ordinaryCount q < Config.noteOrdinary && q.length < Config.noteEntries

/-- A kind of which a newer note replaces the queued one (R175). -/
def replacingKind (k : Kind) : Bool := k == .beacon || k == .roster

/-- What the queue does with an arriving note (R175). -/
inductive Placing where
  | placed (queue : List Note)
  | displaced (queue : List Note) (removed : Note)
  | refused
  deriving DecidableEq, Repr

/-- The note behind the last urgent entry, ahead of every ordinary entry (R175). -/
def insertUrgent (q : List Note) (n : Note) : List Note :=
  q.filter Note.urgent ++ n :: q.filter fun m => !m.urgent

/-- The arriving note in the place of the queued note of its kind (R175). -/
def replaceKind (q : List Note) (n : Note) : List Note := q.map fun m => if m.kind == n.kind then n else m

/-- The table of R175, by the first row that applies. -/
def placeNote (q : List Note) (n : Note) : Placing :=
  if replacingKind n.kind && q.any (fun m => m.kind == n.kind) then .placed (replaceKind q n)
  else if !n.urgent then (if roomOrdinary q then .placed (q ++ [n]) else .refused)
  else if q.length < Config.noteEntries then .placed (insertUrgent q n)
  else match q.getLast? with
    | some m => if m.urgent then .refused else .displaced (insertUrgent q.dropLast n) m
    | none => .refused

/-- The kinds the queue takes in the station's phase (R176). -/
def State.takesKind (s : State) (k : Kind) : Bool :=
  s.active && match s.sys.phase with
  | .start | .strapFault => false
  | .listen => k == .fall || k == .impact
  | .running => true

/-- The state with another outgoing queue. -/
def State.setQueue (s : State) (q : List Note) : State := { s with link := { s.link with queue := q } }

/-! ### Attention (R188 to R190) -/

/-- A condition is in the set. -/
def State.hasCond (s : State) (c : Condition) : Bool := s.console.conditions.has c.bit

/-- A condition joins the set, with no attention test. -/
def State.joinCond (s : State) (c : Condition) : State :=
  { s with console := { s.console with conditions := s.console.conditions.insert c.bit } }

/-- The attention test of R190 is met. -/
def State.attentionMet (s : State) : Bool :=
  s.running && (s.console.conditions &&& ~~~s.console.mask) != 0 && !s.console.inhibited
    && s.console.stream.isNone && !(s.peer 0).silent

/-- The ATTENTION note (R190). -/
def State.attentionNote (s : State) : Note :=
  { target := .station 0, body := .attention s.console.conditions s.console.mask s.sys.role }

/-- The attention test and what it sends (R190). Where the queue refuses the ATTENTION, LINK_OVERRUN joins the
set; the test that this setting event makes finds the queue as full, so it changes nothing more. -/
def State.attentionTest (s : State) : State :=
  if s.attentionMet then
    match placeNote s.link.queue s.attentionNote with
    | .placed q => { s.setQueue q with console := { s.console with inhibited := true } }
    | .displaced _ _ | .refused => s.joinCond .linkOverrun
  else s

/-- A rule sets a condition: one that joins the set is a setting event (R188). -/
def State.setCond (s : State) (c : Condition) : State :=
  if s.hasCond c then s else (s.joinCond c).attentionTest

/-! ### Handing a note to the Link Interface -/

/-- The Console Service is told of a displaced note it keeps account of: a SEG of the stream (R197), a
STREAM-END (R198), the REPLY of a RESET-STATION (R195). -/
def Console.displaced (c : Console) (n : Note) : Console :=
  match n.body with
  | .seg g =>
    match c.stream with
    | some st =>
      if st.serial = g.stream then
        { c with stream := some { st with queued := st.queued - 1, again := g :: st.again } }
      else c
    | none => c
  | .streamEnd e => { c with endsOwed := e :: c.endsOwed }
  | .reply .resetStation .done _ => if c.resetOwed then { c with resetReplyLost := true } else c
  | _ => c

/-- Whether the queue would take a note (R175, R176). -/
def State.wouldTake (s : State) (n : Note) : Bool :=
  s.takesKind n.kind && placeNote s.link.queue n != .refused

/-- A block hands a note to the Link Interface (R175, R176). -/
def State.send (s : State) (n : Note) : State :=
  if s.takesKind n.kind then
    match placeNote s.link.queue n with
    | .placed q => s.setQueue q
    | .displaced q m =>
      ({ s.setQueue q with console := s.console.displaced m } : State).setCond .linkOverrun
    | .refused => s.setCond .linkOverrun
  else s

/-- A note to one station. -/
def State.sendTo (s : State) (k : Station) (b : NoteBody) : State := s.send { target := .station k, body := b }

/-- A note to every station. -/
def State.sendAll (s : State) (b : NoteBody) : State := s.send { target := .all, body := b }

/-- A REPLY to a console command, to station 0 (R194). -/
def State.reply (s : State) (command : Kind) (result : Result) (values : ReplyValues := .none) : State :=
  s.sendTo 0 (.reply command result values)

/-- A REPLY with REFUSED and its reason (R194). -/
def State.refuse (s : State) (command : Kind) (reason : RefusalReason) (values : ReplyValues := .none) : State :=
  s.reply command (.refused reason) values

/-- A STORE-DONE, to station 0 (R152). -/
def State.storeDone (s : State) (op : Kind) (result : Result) (values : StoreValues := .none) : State :=
  s.sendTo 0 (.storeDone op result values)

end Sys2Proof.Machine
end

