-- ==== Sys2Proof/Machine/Store.lean ====
section
/-! DEFINITION. The Record Store below its commands: the write queue (R141), the walk of a region and the log
order (R147, R149), the ring advance (R143, R146), region erases and their suspension (R144, R145), the console
store operations at the engine (R152 to R167), and the engine's choice of work (R139). -/

namespace Sys2Proof.Machine

/-- The state with the store changed. -/
def State.withStore (s : State) (f : Store → Store) : State := { s with store := f s.store }

/-! ### The start scan (R149 to R151) -/

/-- A DROP record whose collected mark is absent (R137). -/
def recordUncollected (bytes : List Byte) : Bool := recordIsDrop bytes && markAbsent bytes

/-- The table entry the scan gives a region (R149). -/
def scanRegion (cells : List Host.Cell) (r : Region) : RegionEntry :=
  let records := (walkRegion cells r).1.map Prod.snd
  let good := records.filter recordGood
  let sequences := good.map fun b => some (recordSequence b)
  { state := if flashByte cells (regionBase r) = erasedByte then .blank else .written
    fill := (walkRegion cells r).2
    first := minOf sequences
    last := maxOf sequences
    good := good.length
    bad := records.length - good.length
    uncollected := records.countP recordUncollected }

/-- The region table the scan builds (R149); regions 0 and 15 have no entry of their own. -/
def scanTable (cells : List Host.Cell) : Vector RegionEntry 16 :=
  Vector.ofFn fun r => if inRing r then scanRegion cells r else {}

/-- The region that holds the newest sequence, or region 1 (R150). -/
def Store.newestRegion (st : Store) : Region :=
  match st.newest with
  | some n => (ringRegions.find? fun r => (st.entry r).last == some n).getD 1
  | none => 1

/-- The good START record with the highest sequence among some records, by its sequence and start count. -/
def bestStart : List (List Byte) → Option (Nat × Nat)
  | [] => none
  | b :: rest =>
    let later := bestStart rest
    if recordGood b && recordKind b == 1 then
      match later with
      | some l => if l.1 > recordSequence b then some l else some (recordSequence b, recordStartCount b)
      | none => some (recordSequence b, recordStartCount b)
    else later

/-- The start count (R151). -/
def scanStartCount (cells : List Host.Cell) : Nat :=
  match bestStart (ringRegions.flatMap fun r => (walkRegion cells r).1.map Prod.snd) with
  | some b => countUp b.2
  | none => 1

/-! ### Log order (R147) -/

/-- A region stands in the log order: it is WRITTEN. -/
def Store.inLog (st : Store) (r : Region) : Bool := (st.entry r).state == .written

/-- The region `k` places after another in ring order (R143). -/
def ringAfter (r : Region) (k : Nat) : Region := Fin.ofNat 16 ((r.val - 1 + k) % 14 + 1)

/-- The key of a region in the log order: a region with good records by its first sequence; a region with only
bad records just before the next region with good records that follows it in ring order (R147).
DEDUCED, log entry 19. -/
def Store.logKey (st : Store) (r : Region) : Nat × Nat :=
  match (st.entry r).first with
  | some f => (f, 14)
  | none =>
    match (List.range 14).find? fun k => (st.entry (ringAfter r (k + 1))).first.isSome with
    | some k => (((st.entry (ringAfter r (k + 1))).first).getD 0, 13 - k)
    | none => (0, 0)

/-- One key stands before another. -/
def keyLe (a b : Nat × Nat) : Bool := a.1 < b.1 || (a.1 == b.1 && a.2 ≤ b.2)

/-- Insertion into a list by key, behind equal keys. -/
def insertBy {α : Type} (key : α → Nat × Nat) (x : α) : List α → List α
  | [] => [x]
  | y :: rest => if keyLe (key y) (key x) then y :: insertBy key x rest else x :: y :: rest

/-- A list in the order of a key. -/
def sortBy {α : Type} (key : α → Nat × Nat) (l : List α) : List α :=
  l.foldl (fun sorted x => insertBy key x sorted) []

/-- The records of the log in log order, as positions with their bytes (R147). -/
def State.logRecords (s : State) : List (Position × List Byte) :=
  (sortBy s.store.logKey (ringRegions.filter s.store.inLog)).flatMap fun r =>
    (walkRegion s.flash.cells r).1.map fun p => ({ region := r, offset := p.1 }, p.2)

/-- The records behind a position in log order. -/
def recordsAfter (p : Position) (records : List (Position × List Byte)) : List (Position × List Byte) :=
  (records.dropWhile fun r => r.1 != p).drop 1

/-- The position of the next record a stream reads: its next position, or the record that has since followed the
last one it sent (R196, R197). -/
def State.streamNext (s : State) (st : Stream) : Option Position :=
  match st.next with
  | some p => some p
  | none =>
    match st.last with
    | some p => ((recordsAfter p s.logRecords).head?).map Prod.fst
    | none => none

/-- The stream ends with this record (R197, steps 1 to 3). `left` counts the records still to send. -/
def streamStopsAt (st : Stream) (left : Nat) (bytes : List Byte) : Bool :=
  (st.checkStop && !recordGood bytes)
  || match st.limit with
     | .toNewest e => recordGood bytes && recordSequence bytes == e
     | .count _ => left ≤ 1

/-- The records of a list up to the one the stream ends with. -/
def takeStream (st : Stream) : Nat → List (Position × List Byte) → List (Position × List Byte)
  | _, [] => []
  | left, r :: rest => if streamStopsAt st left r.2 then [r] else r :: takeStream st (left - 1) rest

/-- The records the stream has still to send: the one at its next position and those after it, up to the one it
ends with (R199). -/
def State.streamRest (s : State) (st : Stream) : List (Position × List Byte) :=
  match s.streamNext st with
  | none => []
  | some p =>
    takeStream st (match st.limit with | .count n => n | .toNewest _ => 0)
      (s.logRecords.dropWhile fun r => r.1 != p)

/-- A stream ends with an outcome owed; one that has an outcome keeps it (R198, R199). -/
def State.cutStream (s : State) (o : StreamOutcome) : State :=
  match s.console.stream with
  | some st =>
    if st.ending.isNone then
      { s with console := { s.console with stream := some { st with ending := some o, inHand := none } } }
    else s
  | none => s

/-- The start of a region erase overtakes the stream that has still to send one of its records (R144, R199); a
stream that waits for a record keeps the place of the next one. -/
def State.overtake (s : State) (r : Region) : State :=
  match s.console.stream with
  | some st =>
    if (s.streamRest st).any fun p => p.1.region == r then s.cutStream .overtaken
    else { s with console := { s.console with stream := some { st with next := s.streamNext st } } }
  | none => s

/-! ### The ring advance (R143, R146) -/

/-- The ring advance passes over a region that is protected, holds uncollected DROPs or is ERASING (R143). -/
def State.passedOver (s : State) (r : Region) : Bool :=
  s.isProtected r || (s.store.entry r).uncollected > 0 || (s.store.entry r).state == .erasing

/-- The region a ring advance chooses, if any (R143). -/
def State.ringChoice (s : State) : Option Region :=
  ((List.range 13).map fun k => ringAfter s.store.openRegion (k + 1)).find? fun r => !s.passedOver r

/-- A region taken as BLANK is read in full before it is opened; one that is not wholly erased is made WRITTEN
with fill offset 4096 (R149). DEDUCED, log entry 20. -/
def State.readBlank (s : State) (r : Region) : State :=
  if (s.store.entry r).state == .blank && !regionErased s.flash.cells r then
    s.withStore fun st => st.setEntry r { st.entry r with state := .written, fill := Config.regionSize }
  else s

/-- A region becomes the open region with fill offset 0, and a blocked period ends (R143, R146). -/
def State.openRing (s : State) (r : Region) : State :=
  s.withStore fun st => { st.setEntry r { st.entry r with fill := 0 } with openRegion := r, blocked := false }

/-- A start of a blocked period sets LOG_FULL (R146). -/
def State.blockLog (s : State) : State :=
  if s.store.isBlocked then s.withStore fun st => { st with blocked := true }
  else (s.withStore fun st => { st with blocked := true }).setCond .logFull

/-- A blocked log makes its ring advance again: where the advance now chooses a region, the blocked period ends, and
the head is placed (R146). The advance itself opens and erases nothing here: a head that fits the open region goes
there, and with an empty queue the open region stays. DESIGN CHOICE, log entry 64. -/
def State.ringRetry (s : State) : State :=
  if s.store.blocked && s.ringChoice.isSome then s.withStore fun st => { st with blocked := false } else s

/-- The start of a region erase: the stream is overtaken, and a region of the ring becomes ERASING and its
records leave the log (R144, R164). Its fill offset stands through the erase. DESIGN CHOICE, log entry 85. -/
def State.startErase (s : State) (r : Region) (cause : EraseCause) : State :=
  (s.overtake r).withStore fun st =>
    { (if inRing r then
        st.setEntry r { state := .erasing, fill := (st.entry r).fill, first := none, last := none,
                        good := 0, bad := 0, uncollected := 0 }
       else st) with
      engine := .erase r cause, remaining := Config.eraseMs }

/-! ### Placing the head (R142) -/

/-- The record of a queue entry fits in the open region (R142). -/
def Store.fitsOpen (st : Store) (e : QueueEntry) : Bool :=
  (st.entry st.openRegion).fill + (14 + e.body.length) ≤ Config.regionSize

/-- The bytes of a queue entry's record (R140). -/
def Store.entryBytes (st : Store) (e : QueueEntry) : List Byte :=
  recordBytes e.content.kindCode st.nextSequence st.startCount e.seconds e.body

/-- The record program of the head starts in the open region, and the entry leaves the queue (R141, R142). -/
def Store.startProgram (st : Store) (e : QueueEntry) (rest : List QueueEntry) : Store :=
  { st with
    queue := rest
    engine := .program st.openRegion (st.entry st.openRegion).fill (st.entryBytes e) st.nextSequence
      e.content.isDrop
    remaining := 1 }

/-- The head is placed: its program starts, or the ring advance for it is made (R142, R143). -/
def State.place (s : State) (e : QueueEntry) (rest : List QueueEntry) : State :=
  if s.store.exhausted then s
  else if s.store.fitsOpen e then s.withStore fun st => st.startProgram e rest
  else if s.store.blocked then s
  else match s.ringChoice with
    | none => s.blockLog
    | some r =>
      let read := s.readBlank r
      if (read.store.entry r).state == .blank then (read.openRing r).withStore fun st => st.startProgram e rest
      else read.startErase r .ring

/-- The open region of a program that starts during an erase: the open region, or during a console erase the
BLANK region the ring advance chooses, which becomes the open region (R145). -/
def State.placeDuringErase (s : State) (cause : EraseCause) (e : QueueEntry) : State × Bool :=
  if s.store.exhausted then (s, false)
  else if s.store.fitsOpen e then (s, true)
  else if cause == .console then
    match s.ringChoice with
    | none => (s, false)
    | some r =>
      let read := s.readBlank r
      if (read.store.entry r).state == .blank then (read.openRing r, true) else (read, false)
  else (s, false)

/-- A region erase in progress is suspended for a DROP entry at the head that can be programmed during it
(R145); one whose erase time has run out is no longer in progress, and ends first. -/
def State.trySuspend (s : State) : State :=
  match s.store.engine, s.store.queue with
  | .erase r cause, e :: rest =>
    if e.content.isDrop && 0 < s.store.remaining then
      let (ready, ok) := s.placeDuringErase cause e
      if ok then
        ready.withStore fun st =>
          { st.startProgram e rest with
            suspended := some { region := r, cause := cause, remaining := st.remaining } }
      else ready
    else s
  | _, _ => s

/-- Test 1 of R139: a suspended erase gives way to the next DROP entry that can be programmed during it, and
otherwise resumes with its remaining time. -/
def State.resumeErase (s : State) (sus : SuspendedErase) : State :=
  let resumed (t : State) : State :=
    t.withStore fun st =>
      { st with engine := .erase sus.region sus.cause, remaining := sus.remaining, suspended := none }
  match s.store.queue with
  | e :: rest =>
    if e.content.isDrop then
      let (ready, ok) := s.placeDuringErase sus.cause e
      if ok then ready.withStore fun st => st.startProgram e rest else resumed ready
    else resumed s
  | [] => resumed s

/-! ### Console store operations at the engine (R152) -/

/-- The note kind of a store operation. -/
def storeOpKind : StoreOp → Kind
  | .collect _ => .collect
  | .eraseRegion _ => .eraseRegion
  | .protectV _ _ => .protectV
  | .protectNv _ => .protectNv
  | .clearNvAll => .clearNvAll
  | .lockNv => .lockNv
  | .writeConfig => .writeConfig
  | .checkStore => .checkStore

/-- The operation ends: STORE-DONE is queued and the slot becomes IDLE (R152). -/
def State.finishOp (s : State) (op : StoreOp) (result : Result) (values : StoreValues := .none) : State :=
  (s.storeDone (storeOpKind op) result values).withStore fun st => { st with slot := none }

/-- A region number as an index, where it is one. -/
def regionOf (r : Nat) : Option Region := if h : r < 16 then some ⟨r, h⟩ else none

/-- The checks of ERASE-REGION (R163). Check 3 is not made while the log is blocked at its highest sequence. -/
def State.eraseRefused (s : State) (r : Nat) : Option RefusalReason :=
  match regionOf r with
  | none => some .badRegion
  | some k =>
    if s.isProtected k then some .guarded
    else if inRing k && k == s.store.openRegion && !s.store.exhausted then some .openRegion
    else if inRing k && (s.store.entry k).uncollected > 0 then some .uncollected
    else none

/-- The checks of a store operation, made at its arrival and again at its engine start (R152, R153, R159 to
R163, R165, R166). -/
def State.opRefused (s : State) : StoreOp → Option RefusalReason
  | .collect _ => none
  | .eraseRegion r => s.eraseRefused r
  | .protectV r _ => if (regionOf r).isNone then some .badRegion else none
  | .protectNv r =>
    if s.store.lock then some .locked else if (regionOf r).isNone then some .badRegion else none
  | .clearNvAll => if s.store.lock then some .locked else none
  | .lockNv => none
  | .writeConfig =>
    if s.isProtected 0 then some .guarded else if s.store.region0Written then some .notBlank else none
  | .checkStore => if s.console.stream.isSome || !s.store.queue.isEmpty then some .busy else none

/-- The addresses of the uncollected DROP records of sequence at most `seq`, in ascending sequence order
(R148). Of two records of one sequence the lower address comes first. DESIGN CHOICE, log entry 76. -/
def State.collectSet (s : State) (seq : Nat) : List Nat :=
  (sortBy (fun p : Nat × Nat => (p.1, p.2))
    ((ringRegions.filter s.store.inLog).flatMap fun r =>
      (walkRegion s.flash.cells r).1.filterMap fun p =>
        if recordUncollected p.2 && recordSequence p.2 ≤ seq then
          some (recordSequence p.2, regionBase r + p.1)
        else none)).map Prod.snd

/-- A V flag set or cleared (R159). -/
def Store.setV (st : Store) (r : Nat) (on : Bool) : Store :=
  { st with vFlags := if on then st.vFlags.insert r else st.vFlags.remove r }

/-- The number of N flags that are set (R161). -/
def flagCount (n : Bits16) : Nat := regions.countP fun r => n.getLsbD r.val

/-- The ring advance made again where a ring region's protection has changed (R146, R158). -/
def State.retryIfProtectionChanged (s before : State) : State :=
  if s.ringProtection != before.ringProtection then s.ringRetry else s

/-- The engine starts an operation that waits: its checks are made again, it ends at once where it fails them or
takes no engine time, and otherwise its engine work starts (R152). A configuration write goes on in the phase that
log entry 63 names (DESIGN CHOICE). -/
def State.startOp (s : State) (op : StoreOp) : State :=
  match s.opRefused op with
  | some reason =>
    (s.finishOp op (.refused reason)).withStore fun st =>
      if op == .writeConfig then { st with configWrite := none } else st
  | none =>
    let busy (e : EngineOp) (ms : Nat) : State :=
      s.withStore fun st =>
        { st with engine := e, remaining := ms, slot := some { op := op, waiting := false } }
    match op with
    | .collect seq =>
      match s.collectSet seq with
      | [] => s.finishOp op .done (.count 0)
      | todo => busy (.marks todo 0) todo.length
    | .eraseRegion r =>
      match regionOf r with
      | some k => (s.withStore fun st => { st with slot := some { op := op, waiting := false } }).startErase k .console
      | none => s
    | .protectV r on =>
      ((s.withStore fun st => st.setV r on).finishOp op .done (.flag r on)).retryIfProtectionChanged s
    | .protectNv r =>
      match regionOf r with
      | some k => if s.flash.nFlags.getLsbD r then s.finishOp op .done (.region r) else busy (.flagProgram k) 1
      | none => s
    | .clearNvAll => busy .flagClear Config.flagClearMs
    | .lockNv => (s.withStore fun st => { st with lock := true }).finishOp op .done
    | .writeConfig =>
      match s.store.configWrite with
      | some w =>
        s.withStore fun st =>
          { st with
            engine := .configProgram 0 w.segments 0
            remaining := w.segments.length
            slot := some { op := op, waiting := false }
            region0Written := true
            configWrite := some { w with phase := .programming } }
      | none => s.finishOp op .done (.segments 0)
    | .checkStore => busy .check Config.storeCheckMs

/-! ### The engine's choice of work (R139) -/

/-- Test 3: the operation that waits in the slot, if any. -/
def Store.waitingOp (st : Store) : Option StoreOp :=
  match st.slot with
  | some sl => if sl.waiting then some sl.op else none
  | none => none

/-- The engine is idle. -/
def Store.engineIdle (st : Store) : Bool := st.engine == .idle

/-- Test 2 of R139: a DROP entry at the head is placed. -/
def State.dropTest (s : State) : State :=
  match s.store.queue with
  | e :: rest => if e.content.isDrop then s.place e rest else s
  | [] => s

/-- Test 3 of R139: the operation that waits in the slot starts. -/
def State.opTest (s : State) : State :=
  match s.store.waitingOp with
  | some op => s.startOp op
  | none => s

/-- Test 4 of R139: an ordinary entry at the head is placed. -/
def State.ordinaryTest (s : State) : State :=
  match s.store.queue with
  | e :: rest => if e.content.isDrop then s else s.place e rest
  | [] => s

/-- One pass of the tests of R139 on a free engine. -/
def State.engineTests (s : State) : State :=
  match s.store.suspended with
  | some sus => s.resumeErase sus
  | none =>
    let afterDrop := s.dropTest
    if !afterDrop.store.engineIdle then afterDrop
    else
      let afterOp := afterDrop.opTest
      if !afterOp.store.engineIdle then afterOp else afterOp.ordinaryTest

/-- The free engine takes its next work (R139). An operation that ended at its start may have ended a blocked
period, so the tests are made once more. -/
def State.engineNext (s : State) : State :=
  if s.store.engineIdle then
    let once := s.engineTests
    if once.store.engineIdle then once.engineTests else once
  else s

/-- The engine's operation has ended, and the engine takes its next work (R138, R139). -/
def State.engineFree (s : State) : State :=
  (s.withStore fun st => { st with engine := .idle, remaining := 0 }).engineNext

/-! ### The write queue (R141) -/

/-- A DROP entry (R141). -/
def QueueEntry.isDrop (e : QueueEntry) : Bool := e.content.isDrop

/-- What the write queue does with an arriving record (R141). -/
inductive Queueing where
  | placed (queue : List QueueEntry)
  | displaced (queue : List QueueEntry)
  | refused
  deriving DecidableEq, Repr

/-- The number of ordinary entries of the write queue. -/
def ordinaryRecords (q : List QueueEntry) : Nat := q.countP fun e => !e.isDrop

/-- The entry behind the last DROP entry, ahead of every ordinary entry (R141). -/
def insertDrop (q : List QueueEntry) (e : QueueEntry) : List QueueEntry :=
  q.filter QueueEntry.isDrop ++ e :: q.filter fun f => !f.isDrop

/-- The table of R141. -/
def placeRecord (q : List QueueEntry) (e : QueueEntry) : Queueing :=
  if !e.isDrop then
    if ordinaryRecords q < Config.recordOrdinary && q.length < Config.recordEntries then .placed (q ++ [e])
    else .refused
  else if q.length < Config.recordEntries then .placed (insertDrop q e)
  else match q.getLast? with
    | some f => if f.isDrop then .refused else .displaced (insertDrop q.dropLast e)
    | none => .refused

/-- A queue entry for a record handed over now: its body, which is at most 26 bytes, and the seconds since start
(R140). -/
def State.queueEntry (s : State) (c : RecordContent) : QueueEntry :=
  { content := c, body := (Config.recordBody c).take 26, seconds := s.sys.clock / 1000 }

/-- The engine hears of work that has arrived: a free engine takes it, and an erase may be suspended for it
(R139, R145). -/
def State.workArrived (s : State) : State := if s.store.engineIdle then s.engineNext else s.trySuspend

/-- A block hands a record to the Record Store, which takes records from the entry to LISTEN on (R141, R155). -/
def State.hand (s : State) (c : RecordContent) : State :=
  if s.awake then
    match placeRecord s.store.queue (s.queueEntry c) with
    | .placed q => (s.withStore fun st => { st with queue := q }).workArrived
    | .displaced q => ((s.withStore fun st => { st with queue := q }).setCond .logOverrun).workArrived
    | .refused => s.setCond (if c.isDrop then .dropLost else .logOverrun)
  else s

/-! ### Reads that wait for an erase (R147) -/

/-- The 12 bytes of region 15 that an IDENTITY index names (R193). -/
def State.identityBytes (s : State) (index : Nat) : List Byte :=
  flashRead s.flash.cells (regionBase 15 + 12 * index) 12

/-- The REPLY of topic IDENTITY (R192, R193). Its content fills one part (log entry 4). -/
def State.replyIdentity (s : State) (index part : Nat) : State :=
  s.sendTo 0 (.ask (.val .identity) index part 1 (.done (partBytes 1 (.identity (s.identityBytes index)) part)))

/-- Once bank 1 is free of erases, the IDENTITY asks that waited are answered (R147, R192).
DESIGN CHOICE for their order, log entry 39. -/
def State.serveAsks (s : State) : State :=
  if s.store.bankBusy 1 then s
  else
    s.console.asksWaiting.foldl (fun t a => t.replyIdentity a.1 a.2)
      { s with console := { s.console with asksWaiting := [] } }

end Sys2Proof.Machine
end

