-- ==== Sys2Proof/Machine/Episode.lean ====
section
/-! DEFINITION. What the other blocks tell the Shock Monitor: the result of a role check (R109, R110, R113) and
that a handover runs (R118). -/

namespace Sys2Proof.Machine

/-- The state with the Shock Monitor changed. -/
def State.withShock (s : State) (f : Shock → Shock) : State := { s with shock := f s.shock }

/-- The lowest-numbered station of role BASE that is not silent (R110). -/
def State.lowestBase (s : State) : Option Station := stations.find? fun k => s.present k .base

/-- The SETTLED note of an episode record with its result (R110). -/
def settledOf (d : DropRecord) (result : CheckResult) (late : Bool) : SettledNote :=
  { count := d.count, source := d.source, sourceStation := d.sourceStation, result := result, peak := d.peak,
    axis := d.axis, impacts := d.impactCount, late := late }

/-- SETTLED to the lowest-numbered BASE that is not silent, if there is one (R110). -/
def State.queueSettled (s : State) (n : SettledNote) : State :=
  match s.lowestBase with
  | some k => s.sendTo k (.settled n)
  | none => s

/-- SETTLED is due: one due in LISTEN waits for the entry to RUNNING (R110), with the peak, the axis and the impact
count of the moment it fell due. DESIGN CHOICE, log entry 65. -/
def State.oweSettled (s : State) (n : SettledNote) : State :=
  if s.listening then s.withShock fun k => { k with settledOwed := k.settledOwed ++ [n] } else s.queueSettled n

/-- A record of an episode that takes its check result (R109). -/
def Episode.take (e : Episode) (result : CheckResult) : Episode :=
  { e with drop := { e.drop with checkResult := some result }, checkPending := false }

/-- A closed record awaits its result (R113). -/
def Shock.closedAwaits (k : Shock) : Bool :=
  match k.closed with
  | some e => e.checkPending
  | none => false

/-- The role check of a BAY or LID gives its result: the record of the episode that asked for it takes it, the
closed record before the record in progress (R109, R110, R113). -/
def State.roleResult (s : State) (result : CheckResult) : State :=
  match s.shock.closed with
  | some e =>
    if e.checkPending then
      ((s.withShock fun k => { k with closed := none }).oweSettled (settledOf e.drop result true)).hand
        (.drop (e.take result).drop none)
    else s
  | none =>
    match s.shock.episode with
    | some e =>
      if e.checkPending then
        (s.withShock fun k => { k with episode := some (e.take result) }).oweSettled
          (settledOf e.drop result false)
      else s
    | none => s

/-- The during-handover flag of the record in progress is set (R118). -/
def State.markHandover (s : State) : State :=
  s.withShock fun k =>
    { k with episode := k.episode.map fun e => { e with drop := { e.drop with duringHandover := true } } }

end Sys2Proof.Machine
end

