-- ==== Sys2Proof/Machine/Bay.lean ====
section
/-! DEFINITION. The Bay Controller of a BAY: bands and summary (R46), states and path (R47), checks (R48, R61),
the roster image (R17, R49), release and removal (R51, R52), protections (R53 to R56), the ask (R57 to R60). -/

namespace Sys2Proof.Machine

/-- The state with the Bay Controller changed. -/
def State.withBay (s : State) (f : Bay → Bay) : State := { s with bay := f s.bay }

/-! ### The pack report (R46) -/

/-- The voltage band of a reading (R46). -/
def voltageBand (mv : Nat) : VoltageBand := if mv < 11500 then .low else if mv < 15500 then .mid else .high

/-- The temperature band of a reading (R46). -/
def tempBand (t : Int) : TempBand := if t < 45 then .normal else if t < 70 then .warm else .hot

/-- A current in units of 10 mA, floored and saturating at 255 (R46). -/
def tenths (ma : Nat) : Nat := min (ma / 10) 255

/-- The bay summary of a BEACON (R46). -/
def State.baySummary (s : State) : BaySummary where
  state := s.bay.state
  pathClosed := s.bay.path
  charge := if s.pins.present then s.bay.charge else 0
  voltage := if s.pins.present then voltageBand s.bay.sample.voltage else .low
  temperature := if s.pins.present then tempBand s.bay.sample.temperature else .normal
  lever := s.pins.lever
  current := if s.pins.present then tenths s.bay.sample.current else 0

/-! ### States (R47) -/

/-- The states whose path is closed (R47). -/
def pathOf (st : BayState) : Bool := st == .carrying || st == .releasing

/-- A transition, which closes or opens the path as its state gives (R47). -/
def Bay.go (b : Bay) (st : BayState) : Bay := { b with state := st, path := pathOf st }

/-- The BASE a bay's notes go to: the sender of the image, or every station while the image is none (R57).
DEDUCED for TAKEN, DRAINED, GONE, LOST and FAULT, log entry 14. -/
def State.baseTarget (s : State) : Target :=
  match s.image with
  | some i => .station i.sender
  | none => .all

/-- A bay note to the BASE. -/
def State.sendBase (s : State) (b : NoteBody) : State := s.send { target := s.baseTarget, body := b }

/-- The station's own entry in the roster image (R18). -/
def State.ownEntry (s : State) : Option Entry :=
  match s.image with
  | some i => rosterEntry i.record s.sys.station
  | none => none

/-- The share limit of an entry (R18). -/
def shareLimit (load : Nat) (e : Entry) : Nat :=
  if e.state = .releasing then 0 else load * e.weight * 5 / 64

/-- The path limit in mA (R18, R47, R56); 0 while the path is open. In START, with the driver kept closed from before
a reset, the bay's state is not CARRYING yet and the limit is 0. DESIGN CHOICE, log entry 59. After a rescue close the
rating stands for an own entry of any state but CARRYING, not for READY alone. DESIGN CHOICE, log entry 72. -/
def State.pathLimit (s : State) : Nat :=
  if s.bay.state = .carrying then
    match s.image with
    | none => Config.pathRating
    | some i =>
      match rosterEntry i.record s.sys.station with
      | none => Config.pathRating
      | some e => if s.bay.rescueRating && e.state != .carrying then Config.pathRating
                  else shareLimit i.record.load e
  else 0

/-- A PACK record (R62). -/
def State.handPack (s : State) (cause : PackCause) (before : BayState)
    (failing : Option FailingQuantity := none) : State :=
  s.hand (.pack
    { cause := cause, stateBefore := before, failing := failing, voltage := s.bay.sample.voltage,
      temperature := s.bay.sample.temperature, current := s.bay.sample.current, charge := s.bay.charge,
      version := s.imageVersion, shock := s.shock.state })

/-- The pack check that serves the role check ends with the bay's state as it now stands (R61). A pack check that runs
ends with it at each entry to EMPTY, LOST, FREED or FAULTED, whether or not it serves a role check. DESIGN CHOICE,
log entry 68. -/
def State.endRole (s : State) : State :=
  let t := s.withBay fun b => { b with check := none, checkForRole := false }
  if s.bay.checkForRole then t.roleResult (if s.bay.state = .faulted then .fault else .ok) else t

/-- A pack check starts (R48). -/
def Bay.startCheck (b : Bay) : Bay := { b with check := some Config.packCheckMs, failing := none }

/-- The ask is refused: its state becomes NONE and the lamp shows REFUSED for 2 s (R58, R59). -/
def Bay.refuseAsk (b : Bay) : Bay := { b with ask := .none, answer := none, refused := some Config.refusedMs }

/-- The bay goes SEATED and starts a pack check (R48, R52, R53, R55). A role check that runs is served by the new pack
check. DESIGN CHOICE, log entry 58. -/
def Bay.seat (b : Bay) : Bay :=
  { b.go .seated with check := some Config.packCheckMs, failing := none, freed := none, lostWait := none,
                      cooling := none }

/-- Entry to EMPTY (R52). -/
def State.goEmpty (s : State) : State :=
  (s.withBay fun b =>
    { b.go .empty with ask := .none, answer := none, cause := none, freed := none, lostWait := none,
                       cooling := none }).endRole

/-- Entry to LOST (R53, R62). The LOST note is queued ahead of the handing of the PACK record: DESIGN CHOICE, log entry
91. -/
def State.goLost (s : State) : State :=
  let t := s.withBay fun b => { b.go .lost with lostWait := some Config.lostMs }
  ((t.sendBase .lost).handPack .lost s.bay.state).endRole

/-- Entry to FAULTED with its cause; the cooling timer runs for a fault by temperature (R48, R54, R55, R62). No rule
orders the FAULT note, the PACK record and PACK_FAULT: they stand in this order, so that an ATTENTION for LINK_OVERRUN
or LOG_OVERRUN of the same event is sent before PACK_FAULT joins the set, and lists it not. DESIGN CHOICE, log entry
91. -/
def State.goFaulted (s : State) (cause : FaultCause) (failing : Option FailingQuantity) : State :=
  let t := s.withBay fun b =>
    { b.go .faulted with
      cause := some cause, failing := failing, freed := none
      cooling := if cause = .hot ∨ failing = some .temperature then some Config.coolingMs else none }
  let record := match cause with
    | .checkFail => PackCause.checkFail
    | .hot => .hot
  (((t.sendBase (.fault cause)).handPack record s.bay.state failing).setCond .packFault).endRole

/-- Entry to FREED, with its GONE, which waits in LISTEN (R51, R52, R63). Of the rules R51 and R61 neither orders GONE and
the SETTLED of a role check that ends at this entry: GONE is queued first. DESIGN CHOICE, log entry 89. -/
def State.goFreed (s : State) : State :=
  let t := s.withBay fun b =>
    { b.go .freed with ask := .none, answer := none, reAsk := false, freed := some Config.freedMs,
                       cooling := none, goneOwed := b.goneOwed || s.listening }
  (t.sendBase .gone).endRole

/-- Entry to RELEASING (R50, R58). -/
def Bay.goReleasing (b : Bay) : Bay :=
  { b.go .releasing with drainedSent := false, ask := .none, answer := none }

/-! ### Acting on the roster image (R49) -/

/-- Path transitions are deferred (R49). -/
def State.bayDeferred (s : State) : Bool := s.shockHold || s.listening

/-- A path transition to READY, unless it is deferred (R49). -/
def State.openPath (s : State) : State := if s.bayDeferred then s else s.withBay fun b => b.go .ready

/-- The return of a CARRYING bay to READY, which the rescue grace suppresses (R49, R56). DEDUCED, log
entry 37. -/
def State.returnReady (s : State) : State :=
  if s.bay.grace.isSome then s.withBay fun b => { b with graceSkipped := true }
  else if s.bay.graceSkipped then s
  else s.openPath

/-- The bay acts on its roster image (R49). -/
def State.actOnImage (s : State) : State :=
  match s.image with
  | none => s
  | some i =>
    let own := rosterEntry i.record s.sys.station
    match s.bay.state with
    | .ready =>
      match own with
      | some e =>
        if e.state = .carrying ∧ e.weight > 0 then
          if s.bayDeferred then s
          else
            (s.withBay fun b => b.go .carrying).sendBase (.taken i.record.version)
        else s
      | none => s
    | .carrying =>
      match own with
      | some e =>
        if e.state = .releasing then s.withBay Bay.goReleasing
        else if e.state = .carrying ∧ e.weight > 0 then s.withBay fun b => { b with grace := none }
        else s.returnReady
      | none => s.returnReady
    | .releasing =>
      match own with
      | some e =>
        if e.state = .carrying then s.withBay fun b => b.go .carrying
        else if e.state = .releasing then s
        else s.openPath
      | none => s.openPath
    | _ => s

/-- The image is replaced at a BAY: one that shows it CARRYING ends the rating of a rescue close, whatever its weight,
and one that shows it CARRYING with weight ends the rescue grace at once; one that shows it CARRYING without weight is
not acted on, and leaves the grace (DESIGN CHOICE, log entry 53). A first image
replaces no sender, so a waiting ask stands (DESIGN CHOICE, log entry 56). An ask that waits is refused before the
bay acts on the image, also where the image shows its entry RELEASING (DESIGN CHOICE, log entry 69)
(R49, R56, R58). -/
def State.bayImage (s : State) (old : Option Image) (new : Image) : State :=
  let changed := match old with
    | some i => i.sender != new.sender || i.record.epoch != new.record.epoch
    | none => false
  let waiting := match s.bay.ask with
    | .waiting _ => true
    | _ => false
  let assigned : Bool := match rosterEntry new.record s.sys.station with
    | some e => e.state == .carrying
    | none => false
  let weighs : Bool := match rosterEntry new.record s.sys.station with
    | some e => !(e.weight == 0)
    | none => false
  let t := s.withBay fun b =>
    { b with
      graceSkipped := false, grace := if assigned && weighs then none else b.grace
      rescueRating := b.rescueRating && !assigned }
  (if changed && waiting then t.withBay Bay.refuseAsk else t).actOnImage

/-! ### Asking for release (R57, R58, R60) -/

/-- The bay may send an ask (R57). -/
def State.mayAsk (s : State) : Bool :=
  s.running && s.bay.ask == .none
    && (s.bay.state == .seated || s.bay.state == .ready || s.bay.state == .carrying || s.bay.state == .faulted)

/-- RELEASE-ASK is sent (R57). -/
def State.sendAsk (s : State) (origin : Origin) : State :=
  (s.withBay fun b => { b with ask := .asked, origin := origin, answer := some Config.answerMs }).sendBase
    (.releaseAsk origin)

/-- RELEASE-NO (R58, R60). -/
def State.bayReleaseNo (s : State) (reason : ReleaseReason) : State :=
  let again := reason == .held && s.bay.origin == .lever && s.pins.lever
  s.withBay fun b =>
    { b.refuseAsk with
      reAsk := b.reAsk || again
      reAskDelay := if again && !s.shockHold then some Config.reAskMs else b.reAskDelay }

/-- LET-GO from the BASE named in the image, or from any BASE while the image is none (R51). One that is ignored
leaves the ask state (R58). DESIGN CHOICE, log entry 55. -/
def State.bayLetGo (s : State) (sender : Station) : State :=
  let named := match s.image with
    | some i => i.sender == sender
    | none => true
  if named && (s.bay.state == .releasing || s.bay.state == .seated || s.bay.state == .ready
      || s.bay.state == .faulted) then s.goFreed
  else s

/-- The BASE named in the image becomes silent (R58). -/
def State.baySilence (s : State) (k : Station) : State :=
  match s.image, s.bay.ask with
  | some i, .waiting _ => if i.sender = k then s.withBay Bay.refuseAsk else s
  | _, _ => s

/-- The bay at the return of the shock state to CALM (R60). -/
def State.bayCalm (s : State) : State :=
  let acted := s.actOnImage
  let asked := if acted.bay.reAsk && acted.pins.lever && acted.mayAsk then acted.sendAsk .lever else acted
  asked.withBay fun b => { b with reAsk := false }

/-! ### Samples -/

/-- A reading that fails a pack check by voltage (R48). -/
def voltageFails (p : PackSample) : Bool := p.voltage < 10000 || p.voltage > 17000

/-- A reading that fails a pack check by temperature (R48). -/
def temperatureFails (p : PackSample) : Bool := p.temperature ≥ 60

/-- What a pack sample can bring about. -/
inductive SampleOutcome where
  | checkFail | lost | hot
  deriving DecidableEq, Repr

/-- The outcomes a sample calls for in the bay's state (R48, R53, R54, R61). -/
def Bay.outcomes (b : Bay) (p : PackSample) : List SampleOutcome :=
  (if b.check.isSome && (voltageFails p || temperatureFails p) then [.checkFail] else [])
  ++ (if pathOf b.state && p.voltage < 8000 then [.lost] else [])
  ++ (if (pathOf b.state || b.state == .ready) && p.temperature ≥ 70 then [.hot] else [])

/-- The next value of the free counter has been used. -/
def State.spend (s : State) : State := { s with free := s.free + 1 }

/-- A failed pack check: its failing quantity, which is free where both fail (R48). DESIGN CHOICE, log
entry 8. -/
def State.failCheck (s : State) (p : PackSample) : State :=
  if voltageFails p && temperatureFails p then
    s.spend.goFaulted .checkFail (some (if Config.bothFail s.free then .voltage else .temperature))
  else s.goFaulted .checkFail (some (if voltageFails p then .voltage else .temperature))

/-- One outcome of a sample. -/
def State.sampleOutcome (s : State) (p : PackSample) : SampleOutcome → State
  | .checkFail => s.failCheck p
  | .lost => s.goLost
  | .hot => s.goFaulted .hot none

/-- A sample that brings none of its outcomes: DRAINED (R50) and the cooling timer (R55). DRAINED takes the current of
the sample, also with PRESENT low. DESIGN CHOICE, log entry 70. -/
def State.quietSample (s : State) (p : PackSample) : State :=
  if s.bay.state = .releasing ∧ s.bay.drainedSent = false ∧ p.current < s.config.letGoCurrent
      ∧ s.running = true then
    (s.withBay fun b => { b with drainedSent := true }).sendBase (.drained (tenths p.current))
  else if s.bay.state = .faulted ∧ s.bay.cooling.isSome ∧ p.temperature ≥ 50 then
    s.withBay fun b => { b with cooling := some Config.coolingMs }
  else s

/-- A pack sample (R46, R48, R50, R53, R54, R55). Where it calls for more than one outcome, which is taken is
free, DESIGN CHOICE, log entry 7. -/
def State.takeSample (s : State) (p : PackSample) : State :=
  let t := s.withBay fun b => { b with sample := p }
  match t.bay.outcomes p with
  | [] => t.quietSample p
  | [o] => t.sampleOutcome p o
  | o :: rest =>
    let all := o :: rest
    t.spend.sampleOutcome p (all.getD (Config.packOrder t.free % all.length) o)

/-- The rescue close of a READY bay (R56). Whether the rating stands for a share limit of 0 is fixed here, by the entry
at the close: an image that shows the bay CARRYING now and READY later gives the share limit 0 then. DESIGN CHOICE, log
entry 71. The close has its grace also under an image that already shows the own entry CARRYING: that image ends the
grace only where the bay acts on it at the end of a deferral, and a replacement ends it as any other. DESIGN CHOICE, log
entry 88. -/
def State.rescueClose (s : State) : State :=
  let assigned := match s.ownEntry with
    | some e => e.state == .carrying
    | none => false
  (s.withBay fun b =>
    { b.go .carrying with grace := some Config.graceMs, graceSkipped := false, rescueRating := !assigned }).handPack
      .rescueClose s.bay.state

/-! ### The role check, the starting state -/

/-- The bay's role check (R61). -/
def State.bayRoleCheck (s : State) : State :=
  if s.bay.state = .faulted then s.roleResult .fault
  else if s.pins.present = false ∨ s.bay.state = .empty ∨ s.bay.state = .lost then s.roleResult .ok
  else if s.bay.check.isSome then s.withBay fun b => { b with checkForRole := true }
  else s.withBay fun b => { b.startCheck with checkForRole := true }

/-- The pack check ends without a failure: it passes (R48, R61). -/
def State.passCheck (s : State) : State :=
  let passed := s.withBay fun b =>
    let ended := { b with check := none, checkForRole := false }
    if b.state = .seated then ended.go .ready else ended
  if s.bay.checkForRole then passed.roleResult .ok else passed

/-- The bay's starting state, from its path driver and PRESENT (R63). -/
def State.startBay (s : State) : State :=
  s.withBay fun b =>
    let read := { b with charge := if s.pins.present then s.pins.packCharge else 0 }
    if b.path then read.go .carrying
    else if s.pins.present then read.seat
    else read.go .empty

/-- The bay at the entry to RUNNING: it acts on its image, and sends a GONE owed from LISTEN (R63). -/
def State.bayRunning (s : State) : State :=
  let acted := s.actOnImage
  if acted.bay.goneOwed then (acted.withBay fun b => { b with goneOwed := false }).sendBase .gone else acted

end Sys2Proof.Machine
end

