-- ==== Sys2Proof/Machine/Panel.lean ====
section
/-! DEFINITION. The Panel Controller and the Backlight Supply of a LID: faders (R65 to R70), demand (R71), the
effective allowance (R72, R73), the clamp (R74), applied drive and ramp (R75 to R78), the boost stage (R86, R87,
R89 to R91), headroom (R88) and the string test (R92 to R98). -/

namespace Sys2Proof.Machine

/-- The state with the Panel Controller changed. -/
def State.withPanel (s : State) (f : Panel → Panel) : State := { s with panel := f s.panel }

/-- The state with the Backlight Supply changed. -/
def State.withSupply (s : State) (f : Supply → Supply) : State := { s with supply := f s.supply }

/-- A sum over the zone table. -/
def sumZones (p : Panel) (f : Zone → Nat) : Nat := (p.zones.toList.map f).sum

/-! ### Faders and demand (R65 to R71) -/

/-- The group level of a zone (R65). -/
def Panel.groupLevel (p : Panel) : Group → Nat
  | .a => p.groupA
  | .b => p.groupB
  | .none => 255

/-- The level of a zone before its curve (R71, step 1). -/
def levelOf (g a : Nat) : Nat := g * a / 255

/-- The level shaped by the zone's curve (R71, step 2). -/
def shaped (c : Curve) (p : Nat) : Nat :=
  match c with
  | .linear => p
  | .square => p * p / 255

/-- The demand of a zone (R71). -/
def demandOf (p : Panel) (shockFader : Nat) (z : Zone) : Nat :=
  if shockFader = 0 ∨ z.enabled = false then 0
  else z.config.base * shaped z.config.curve (levelOf (p.groupLevel z.config.group) p.ambient) / 255

/-- The mean of the ambient filter (R66). An empty filter has none, and topic ZONES carries none before the first
reading (R81). DESIGN CHOICE, log entry 74. -/
def ambientMean (filter : List Nat) : Option Nat :=
  if filter.isEmpty then none else some (filter.sum / filter.length)

/-- The ambient curve above its first point (R67). -/
def curveFrom : List (Nat × Nat) → Nat → Nat
  | (l0, f0) :: (l1, f1) :: rest, m =>
    if m < l1 then f0 + (m - l0) * (f1 - f0) / (l1 - l0) else curveFrom ((l1, f1) :: rest) m
  | [(_, f)], _ => f
  | [], _ => 255

/-- The curve value of an ambient mean (R67). -/
def curveValue (curve : List (Nat × Nat)) (m : Nat) : Nat :=
  match curve with
  | (l0, f0) :: _ => if m < l0 then f0 else curveFrom curve m
  | [] => 255

/-! ### The allowance and the clamp (R72 to R74) -/

/-- The granted value V (R72); a part that is no LID keeps its reset value (R84). -/
def State.granted (s : State) : Nat :=
  match s.image with
  | none => Config.safeAllowance
  | some i =>
    if s.sys.role != .lid || (s.peer i.sender).silent then Config.safeAllowance else i.record.allowance

/-- The effective allowance for a granted value and a stage (R73). -/
def effectiveOf (v : Nat) : Stage → Nat
  | .boost => v * 2 / 3
  | .off | .pass => v

/-- The effective allowance E (R73). -/
def State.effective (s : State) : Nat := effectiveOf s.granted s.supply.stage

/-- The target of a zone by the clamp, from the sums of all, of the sheddable and of the proportional demands
(R74). -/
def targetOf (e total shed prop : Nat) (z : Zone) : Nat :=
  if total ≤ e then z.demand
  else if total - e ≤ shed then
    if z.config.sheddable then z.demand * (shed - (total - e)) / shed else z.demand
  else if z.config.sheddable then 0 else z.demand * e / prop

/-- The zone table with its demands (R71). -/
def Panel.withDemands (p : Panel) (shockFader : Nat) : Panel :=
  { p with zones := p.zones.map fun z => { z with demand := demandOf p shockFader z } }

/-- The zone table with its targets by the clamp (R74). -/
def Panel.withTargets (p : Panel) (e : Nat) : Panel :=
  let total := sumZones p Zone.demand
  let shed := sumZones p fun z => if z.config.sheddable then z.demand else 0
  { p with zones := p.zones.map fun z => { z with target := targetOf e total shed (total - shed) z } }

/-- Applied drives above their targets are cut at once (R76), and held at 0 while a string test holds the
strings (R78). -/
def Panel.cut (p : Panel) (hold : Bool) : Panel :=
  { p with zones := p.zones.map fun z => { z with applied := if hold then 0 else min z.applied z.target } }

/-- A string test holds the strings (R78, R92). -/
def State.hold (s : State) : Bool := s.supply.test.isSome

/-- A recomputation (R75): demands, E, targets and the cuts at once. -/
def State.retarget (s : State) : State :=
  s.withPanel fun p => ((p.withDemands s.shockFader).withTargets s.effective).cut s.hold

/-! ### Indications (R79, R88) -/

/-- Any target is non-zero (R79). -/
def Panel.anyTarget (p : Panel) : Bool := p.zones.any fun z => z.target != 0

/-- All applied drive is 0 (R79). -/
def Panel.dark (p : Panel) : Bool := p.zones.all fun z => z.applied == 0

/-- Some zone stands below its target (R77). -/
def Panel.rising (p : Panel) : Bool := p.zones.any fun z => z.applied < z.target

/-- The latest string result of a zone (R94). -/
def Supply.result (b : Supply) (z : ZoneId) : StringResult := b.results[z]

/-- A string is compared while its zone is driven, unless it is masked and faulty (R88). -/
def State.compared (s : State) (z : ZoneId) : Bool :=
  let zone := s.panel.zones[z]
  zone.applied > 0 && !((s.supply.result z).faulty && zone.config.masked)

/-- The indication of a string: the comparator's report while it is compared (R88). -/
def State.indicationOf (s : State) (z : ZoneId) : Indication :=
  if s.compared z then (if s.pins.headroomLow[z] then .low else .ok) else .none

/-- The headroom indications follow what is compared (R88). -/
def State.indicate (s : State) : State :=
  s.withSupply fun b => { b with indications := Vector.ofFn s.indicationOf }

/-- Headroom low (R88). -/
def Supply.low (b : Supply) : Bool := b.indications.any fun i => i == .low

/-! ### The boost stage -/

/-- The state in which the stage leaves OFF (R86). -/
def State.entryStage (s : State) : Stage :=
  if s.config.boostMode = .boost ∧ s.imageReleasing = false then .boost else .pass

/-- The outcome of the boost test: a stage, and whether HEADROOM is set (R89). -/
def State.boostOutcome (s : State) : Stage × Bool :=
  match s.supply.stage, s.config.boostMode with
  | .off, _ => (.off, false)
  | .boost, _ => (.boost, true)
  | .pass, .pass => (.pass, true)
  | .pass, .boost => (.pass, s.imageReleasing)
  | .pass, .auto => if s.imageReleasing || s.imageAdapter then (.pass, true) else (.boost, false)

/-- The boost test (R89); the recomputation that a change of the stage asks for is the caller's. -/
def State.boostTest (s : State) : State :=
  let t := s.withSupply fun b => { b with stage := s.boostOutcome.1 }
  if s.boostOutcome.2 then t.setCond .headroom else t

/-- The stage after a replacement of the image (R90, R91). -/
def State.imageStage (s : State) (wasReleasing : Bool) : Stage :=
  match s.supply.stage with
  | .boost =>
    if s.imageReleasing then .pass
    else if s.config.boostMode = .auto ∧ s.imageAdapter = true then .pass else .boost
  | .pass =>
    if s.config.boostMode = .boost ∧ wasReleasing = true ∧ s.imageReleasing = false then .boost else .pass
  | .off => .off

/-- The off timer at the end of an event (R87). -/
def offTimerAfter (before after : State) (leftOff : Bool) : Option Nat :=
  if after.supply.stage = .off ∨ after.panel.dark = false then none
  else if before.panel.dark = false ∨ leftOff = true then some Config.offMs
  else after.supply.offTimer

/-- The ramp timer at the end of an event (R77, R78). -/
def rampAfter (s : State) : Option Nat :=
  if s.hold || !s.panel.rising then none
  else match s.panel.ramp with
    | some n => some n
    | none => some Config.rampMs

/-- What follows from the targets and applied drives an event leaves (R79): the stage leaves OFF where a target
has become non-zero (R86; DEDUCED, log entry 21), the indications follow, headroom that has become low makes the
boost test (R89), and the off timer and the ramp timer follow (R77, R87). -/
def State.settlePanel (t before : State) : State :=
  let leaves := t.supply.stage == .off && t.panel.anyTarget && !before.panel.anyTarget
  let left := if leaves then (t.withSupply fun b => { b with stage := t.entryStage }).retarget else t
  let seen := left.indicate
  let tested := if seen.supply.low && !before.supply.low then seen.boostTest.retarget.indicate else seen
  let off := tested.withSupply fun b => { b with offTimer := offTimerAfter before tested leaves }
  off.withPanel fun p => { p with ramp := rampAfter off }

/-- An event that recomputes the targets (R75). -/
def State.panelEvent (s : State) (work : State → State) : State := (work s).retarget.settlePanel s

/-! ### Events of the panel -/

/-- The image is replaced at a LID: the stage follows, the boost test is made while headroom is low, and one
recomputation has all of it in force (R75, R85, R89 to R91). DEDUCED for this order, log entry 22. -/
def State.panelImage (s old : State) : State :=
  let staged := s.withSupply fun b => { b with stage := s.imageStage old.imageReleasing }
  let tested := if staged.supply.low then staged.boostTest else staged
  tested.retarget.settlePanel old

/-- A reading joins the ambient filter (R66). -/
def joinFilter (filter : List Nat) (lux : Nat) : List Nat :=
  if filter.length ≥ 10 then filter.drop (filter.length - 9) ++ [lux] else filter ++ [lux]

/-- Two fader values differ by 8 or more (R68). -/
def farApart (a b : Nat) : Bool := a ≥ b + 8 || b ≥ a + 8

/-- An ambient reading (R66, R68). -/
def State.readAmbient (s : State) (lux : Nat) : State :=
  let filter := joinFilter s.panel.filter lux
  let kept := s.withPanel fun p => { p with filter := filter }
  match s.panel.mode, ambientMean filter with
  | .auto, some m =>
    let c := curveValue s.config.curve m
    if farApart c s.panel.ambient then kept.panelEvent fun t => t.withPanel fun p => { p with ambient := c }
    else kept
  | _, _ => kept

/-- The panel with the ambient mode of a SET-LEVEL (R69). -/
def Panel.setMode (p : Panel) (curve : List (Nat × Nat)) (m : AmbientMode) : Panel :=
  if p.mode = m then p
  else match m with
    | .fixed => { p with mode := .fixed, ambient := 255 }
    | .auto =>
      { p with
        mode := .auto
        ambient := match ambientMean p.filter with
          | some mean => curveValue curve mean
          | none => p.ambient }

/-- The panel with the faders and the mode of a SET-LEVEL (R80). -/
def Panel.setLevel (p : Panel) (curve : List (Nat × Nat)) (g : LevelGroup) (level : Nat) (m : LevelMode) :
    Panel :=
  let faded := match g with
    | .a => { p with groupA := level }
    | .b => { p with groupB := level }
    | .keep => p
  match m with
  | .fixed => faded.setMode curve .fixed
  | .auto => faded.setMode curve .auto
  | .keep => faded

/-- A ramp step of a zone (R77). -/
def Zone.rise (z : Zone) : Zone :=
  if z.applied < z.target then { z with applied := min (z.applied + Config.rampStep) z.target } else z

/-- The ramp timer expires (R77). -/
def State.rampStep (s : State) : State :=
  if s.hold then s.withPanel fun p => { p with ramp := none }
  else (s.withPanel fun p => { p with zones := p.zones.map Zone.rise, ramp := none }).settlePanel s

/-! ### The string test (R92 to R98) -/

/-- The test set: the zones configured ENABLED (R92). -/
def testSet (c : Configuration) : List ZoneId := zones.filter fun z => c.zones[z].enabled

/-- A string test starts, and its hold begins: every applied drive is set to 0. The beginning of a hold is no event
of R75, so demands and targets stand (R75, R78, R92). -/
def State.startTest (s : State) (trigger : TestTrigger) : State :=
  ((s.withSupply fun b =>
      { b with test := some { trigger := trigger, testSet := testSet s.config, timer := Config.testMs } }).withPanel
    fun p => p.cut true).settlePanel s

/-- The current of a string in mA: the test current of a string under test, while a test runs; else the applied drive
of its zone, which the stage passes on unless it is OFF (R78, R85, R92). A part that plays no LID drives no string
(R84). -/
def State.stringCurrent (s : State) (z : ZoneId) : Nat :=
  if s.plays .lid then
    match s.supply.test with
    | some t => if t.testSet.contains z then Config.testCurrent else 0
    | none => if s.supply.stage = .off then 0 else s.panel.zones[z].applied
  else 0

/-- The test state becomes IDLE and the hold ends (R78, R95, R96). -/
def State.endHold (s : State) : State :=
  s.panelEvent fun t => t.withSupply fun b => { b with test := none }

/-- A running test is overtaken: it ends without results, and a CONSOLE test is answered HELD (R96). -/
def State.overtakeTest (s : State) (overtaken : TestTrigger → Bool) : State :=
  match s.supply.test with
  | some t =>
    if overtaken t.trigger then
      let ended := s.endHold
      if t.trigger = .console then ended.refuse .testStrings .held else ended
    else s
  | none => s

/-- The latest results after a complete test (R94). -/
def resultsAfter (b : Supply) (set : List ZoneId) (measures : Vector Measure 6) : Vector StringResult 6 :=
  Vector.ofFn fun z => if set.contains z then measures[z].result else b.results[z]

/-- The zone state after a test (R95, step 2). -/
def enabledAfter (set : List ZoneId) (results : Vector StringResult 6) (id : ZoneId) (z : Zone) : Bool :=
  if set.contains id then
    match results[id] with
    | .ok => true
    | .opened | .shorted => if z.config.masked then z.enabled else false
    | .none => z.enabled
  else z.enabled

/-- The zone table after a test (R95, step 2). -/
def zonesAfter (p : Panel) (set : List ZoneId) (results : Vector StringResult 6) : Vector Zone 6 :=
  Vector.ofFn fun z => { p.zones[z] with enabled := enabledAfter set results z p.zones[z] }

/-- The string fault summary (R94). -/
def faultSummary (results : Vector StringResult 6) : List ZoneId := zones.filter fun z => results[z].faulty

/-- The STRING record of a test (R98), from the state before the test's end and the state after step 2. -/
def stringRecord (before after : State) (t : StringTest) : StringRecord where
  trigger := t.trigger
  results := after.supply.results
  masked := zones.filter fun z => after.panel.zones[z].config.masked && (after.supply.result z).faulty
  disabled := zones.filter fun z => !after.panel.zones[z].enabled
  changed := zones.filter fun z => after.panel.zones[z].enabled != before.panel.zones[z].enabled
  stage := after.supply.stage
  shock := after.shock.state
  version := after.imageVersion

/-- The LID's role result (R97). -/
def lidResult (after : State) (set : List ZoneId) : CheckResult :=
  if set.any fun z => (after.supply.result z).faulty && !after.panel.zones[z].config.masked then .fault else .ok

/-- The outcome of a complete test goes to whoever started it (R95, step 6). -/
def State.reportTest (s : State) (t : StringTest) : State :=
  match t.trigger with
  | .start => s
  | .checking => s.roleResult (lidResult s t.testSet)
  | .console => s.reply .testStrings .done (.strings s.supply.results (s.panel.zones.map Zone.enabled))

/-- The test timer expires (R95). -/
def State.completeTest (s : State) (t : StringTest) (measures : Vector Measure 6) : State :=
  let results := resultsAfter s.supply t.testSet measures
  let set := (s.withSupply fun b => { b with results := results }).withPanel fun p =>
    { p with zones := zonesAfter p t.testSet results }
  let fault := t.testSet.any fun z => results[z].faulty
  let record := stringRecord s set t
  let told := if fault then set.setCond .stringFault else set
  let written := if fault || !record.changed.isEmpty then told.hand (.string record) else told
  written.endHold.reportTest t

/-- The LID's role summary (R82, R178). -/
def State.lidSummary (s : State) : LidSummary where
  applied := sumZones s.panel Zone.applied
  allowance := s.effective
  stage := s.supply.stage
  faults := faultSummary s.supply.results

end Sys2Proof.Machine
end

