-- ==== Sys2Proof/Machine/Roster.lean ====
section
/-! DEFINITION. The Roster Unit of a BASE: the allocation (R8 to R11), the entries (R3 to R6), versions and
publishing (R12 to R16), the handover slot and the release wait list (R21 to R45). -/

namespace Sys2Proof.Machine

/-- The state with the Roster Unit changed. -/
def State.withUnit (s : State) (f : RosterUnit → RosterUnit) : State := { s with roster := f s.roster }

/-- The state with the roster record changed. -/
def State.withRecord (s : State) (f : Roster → Roster) : State :=
  s.withUnit fun u => { u with record := f u.record }

/-! ### Allocation (R8 to R11) -/

/-- An entry that may be given weight (R8). -/
def eligible (reserve : Nat) (e : Entry) : Bool :=
  (e.state == .ready || e.state == .carrying) && e.charge ≥ reserve && e.temperature != .hot
    && (!e.silent || e.state == .carrying)

/-- A READY or CARRYING entry: the last-resort set (R9). -/
def lastResort (e : Entry) : Bool := e.state == .ready || e.state == .carrying

/-- The share of the i-th of n members of the sixteen (R9). -/
def shareOf (n i : Nat) : Nat := 16 / n + if i < 16 % n then 1 else 0

/-- The sixteen shared among the members of a list in its order, and 0 to the others (R9); `i` members stand
before it. -/
def giveShares (member : Entry → Bool) (n : Nat) : Nat → List Entry → List Entry
  | _, [] => []
  | i, e :: rest =>
    if member e then { e with weight := shareOf n i } :: giveShares member n (i + 1) rest
    else { e with weight := 0 } :: giveShares member n i rest

/-- The set that shares the load, by steps 2 and 3 of R9. -/
def carriers (reserve : Nat) (entries : List Entry) : Entry → Bool :=
  if entries.any (eligible reserve) then eligible reserve else lastResort

/-- The weights of R9. -/
def allocate (adapter : Bool) (reserve : Nat) (entries : List Entry) : List Entry :=
  if adapter then entries.map fun e => { e with weight := 0 }
  else
    let member := carriers reserve entries
    giveShares member (entries.countP member) 0 entries

/-- The state that follows from an entry's weight (R10). -/
def consequence (e : Entry) : Entry :=
  if e.state = .ready ∧ e.weight ≠ 0 then { e with state := .carrying }
  else if e.state = .carrying ∧ e.weight = 0 then { e with state := .ready }
  else e

/-- The base value of the allowance without the adapter, by the number of bays with weight (R11). -/
def allowanceBase : Nat → Nat
  | 0 => 0
  | 1 => 500
  | 2 => 900
  | _ => 1200

/-- The panel allowance (R11). -/
def allowanceFor (adapter : Bool) (entries : List Entry) : Nat :=
  if adapter then 1500
  else
    let base := allowanceBase (entries.countP fun e => e.weight != 0)
    if entries.any (fun e => e.weight != 0 && e.temperature == .warm) then base * 3 / 4 else base

/-- An allocation by last resort that draws on a pack below the reserve (R9, step 3). -/
def drawsReserve (adapter : Bool) (reserve : Nat) (entries : List Entry) : Bool :=
  !adapter && !entries.any (eligible reserve) && entries.any fun e => lastResort e && e.charge < reserve

/-- The record with its allocation, states and allowance recomputed (R9 to R11). -/
def recomputed (reserve : Nat) (r : Roster) : Roster :=
  let entries := (allocate r.adapter reserve r.entries).map consequence
  { r with entries := entries, allowance := allowanceFor r.adapter entries }

/-- Cover for a bay: the adapter, or another eligible entry (R8, R27). -/
def coverFor (reserve : Nat) (r : Roster) (k : Station) : Bool :=
  r.adapter || r.entries.any fun e => e.station != k && eligible reserve e

/-! ### Entries -/

/-- An entry at its place in ascending station order (R1). -/
def insertEntry (e : Entry) : List Entry → List Entry
  | [] => [e]
  | f :: rest => if f.station < e.station then f :: insertEntry e rest else e :: f :: rest

/-- The record with the entry of a station changed. -/
def mapEntry (r : Roster) (k : Station) (f : Entry → Entry) : Roster :=
  { r with entries := r.entries.map fun e => if e.station = k then f e else e }

/-- The record without the entry of a station. -/
def removeEntry (r : Roster) (k : Station) : Roster :=
  { r with entries := r.entries.filter fun e => e.station != k }

/-- The state R3 enters a reported state as; an EMPTY bay has no entry. -/
def enteredAs : BayState → Option EntryState
  | .empty => none
  | .seated => some .seated
  | .ready => some .ready
  | .carrying | .releasing => some .carrying
  | .freed => some .freed
  | .lost => some .lost
  | .faulted => some .faulted

/-- The HOT band makes an entry FAULTED that is held READY, CARRYING or RELEASING (R3, R4). -/
def hotFault (t : TempBand) (st : EntryState) : EntryState :=
  if t = .hot ∧ (st = .ready ∨ st = .carrying ∨ st = .releasing) then .faulted else st

/-- A new entry from a bay summary (R3). -/
def newEntry (k : Station) (st : EntryState) (b : BaySummary) (shock : ShockState) (silent : Bool) : Entry where
  station := k
  state := hotFault b.temperature st
  weight := 0
  charge := b.charge
  voltage := b.voltage
  temperature := b.temperature
  silent := silent
  held := shock != .calm

/-- The table of R4: the state held and the state reported; none where the entry is removed. -/
def settleState : EntryState → BayState → Option EntryState
  | _, .empty => none
  | .releasing, .lost => some .lost
  | .releasing, .faulted => some .faulted
  | .releasing, _ => some .releasing
  | _, .freed => some .freed
  | _, .lost => some .lost
  | _, .faulted => some .faulted
  | _, .seated => some .seated
  | .ready, .ready => some .ready
  | .carrying, .ready => some .carrying
  | _, .ready => some .ready
  | _, .carrying => some .carrying
  | .ready, .releasing => some .ready
  | _, .releasing => some .carrying

/-- An entry that takes a bay summary by R4; none where it is removed. -/
def settleEntry (e : Entry) (b : BaySummary) (shock : ShockState) : Option Entry :=
  (settleState e.state b.state).map fun st =>
    { e with state := hotFault b.temperature st, charge := b.charge, voltage := b.voltage,
             temperature := b.temperature, held := shock != .calm }

/-- A change of an entry by a beacon that is a roster change trigger (R4). -/
def beaconTriggers (reserve : Nat) (before after : Entry) : Bool :=
  before.state != after.state || before.voltage != after.voltage || before.temperature != after.temperature
    || decide (before.charge < reserve) != decide (after.charge < reserve)

/-- The entry of a station after R4 on a summary. -/
def settleRoster (r : Roster) (k : Station) (b : BaySummary) (shock : ShockState) : Roster :=
  match rosterEntry r k with
  | none => r
  | some e =>
    match settleEntry e b shock with
    | some e' => mapEntry r k fun _ => e'
    | none => removeEntry r k

/-- The bay summary a peer entry holds. -/
def Peer.bay (p : Peer) : Option BaySummary :=
  match p.summary with
  | some (.bay b) => some b
  | _ => none

/-! ### The recomputation and the takers (R9 to R11, R29, R37) -/

/-- The entry of a station is in a state. -/
def stateIs (r : Roster) (k : Station) (st : EntryState) : Bool :=
  r.entries.any fun e => e.station == k && e.state == st

/-- Two lists of stations as one ascending list without duplicates. -/
def unionStations (a b : List Station) : List Station := stations.filter fun k => a.contains k || b.contains k

/-- Takers leave: with their confirmations, and into the lost takers where they are lost (R37). The lost takers stand in
the order in which they left, those of one event ascending. DESIGN CHOICE, log entry 78. -/
def Slot.dropTakers (sl : Slot) (gone : List Station) (lost : Bool) : Slot :=
  { sl with
    takers := sl.takers.filter fun k => !gone.contains k
    confirmed := sl.confirmed.filter fun k => !gone.contains k
    lostTakers :=
      if lost then sl.lostTakers ++ gone.filter fun k => !sl.lostTakers.contains k else sl.lostTakers }

/-- The takers follow a recomputation (R29, R37). A taker that leaves here always leaves cover behind: the
adapter, or the eligible entries that were given its load. -/
def Slot.follow (sl : Slot) (before after : Roster) : Slot :=
  let added := after.entries.filterMap fun e =>
    if e.station ≠ sl.leaving ∧ e.state = .carrying ∧ stateIs before e.station .ready then some e.station
    else none
  let left := sl.takers.filter fun k => stateIs before k .carrying && stateIs after k .ready
  let kept := sl.dropTakers left (!after.adapter)
  { kept with takers := unionStations kept.takers added }

/-- A leaving entry as a recomputation takes it: RELEASING where R4 has moved it to READY or CARRYING (R29). DEDUCED,
log entry 67. -/
def heldLeaving (e : Entry) : Entry := if lastResort e then { e with state := .releasing } else e

/-- The record as a recomputation takes it: while the slot is BUSY its leaving entry draws no load (R29). -/
def RosterUnit.held (u : RosterUnit) : Roster :=
  match u.slot with
  | some sl => mapEntry u.record sl.leaving heldLeaving
  | none => u.record

/-- The recomputation of a roster change trigger (R7, R9, R10, R11, R29). -/
def State.recompute (s : State) : State :=
  let before := s.roster.held
  let t := s.withUnit fun u =>
    { u with
      record := recomputed s.config.reserve before
      slot := u.slot.map fun sl => sl.follow before (recomputed s.config.reserve before) }
  if drawsReserve before.adapter s.config.reserve before.entries then t.setCond .lowReserve else t

/-! ### The end of a handover -/

/-- The roster version after the end that an event gives: the next one where the event has changed the record
(R12, R45). DEDUCED, log entry 15. -/
def State.versionAfter (s : State) (before : Roster) : Nat :=
  if s.roster.record = before then before.version else countUp before.version

/-- The SWAP record of a slot (R45). -/
def State.swapOf (s : State) (before : Roster) (sl : Slot) (outcome : SwapOutcome) (evidence : EndEvidence)
    (aborted : Bool) : SwapRecord where
  outcome := outcome
  leaving := sl.leaving
  origin := sl.origin
  takers := if aborted then sl.takers.filter fun k => !sl.confirmed.contains k else sl.takers
  confirmed := if aborted then [] else sl.confirmed
  lostTakers := sl.lostTakers
  drained := sl.drained
  evidence := evidence
  elapsed := min (s.sys.clock - sl.startTime) 65535
  suspensions := sl.suspensions
  version := s.versionAfter before

/-- The slot becomes IDLE, the leaving station none, the handover timer stops (R34, R36, R38). -/
def State.endSlot (s : State) : State :=
  s.withUnit fun u =>
    { u with slot := none, handoverTimer := none, record := { u.record with leaving := none } }

/-- A release without handover (R28). R45 gives its SWAP record a leaving station, end evidence and elapsed; the
fields of a handover, which there is none of, are empty, no and 0. DESIGN CHOICE, log entry 52. -/
def State.releaseWithout (s : State) (before : Roster) (k : Station) (origin : Origin) : State :=
  (s.sendTo k (.letGo .noHandover)).hand
    (.swap { outcome := .noHandover, leaving := k, origin := origin, takers := [], confirmed := [],
             lostTakers := [], drained := false, evidence := .none, elapsed := 0, suspensions := 0,
             version := s.versionAfter before })

/-- A handover starts (R27, R118). -/
def State.startHandover (s : State) (k : Station) (origin : Origin) : State :=
  ((s.withUnit fun u =>
    { u with
      slot := some { leaving := k, origin := origin, takers := [], confirmed := [], lostTakers := [],
                     drained := false, letGoSent := false, phase := .shifting, startTime := s.sys.clock,
                     suspensions := 0 }
      handoverTimer := some Config.handoverMs
      record := { mapEntry u.record k (fun e => { e with state := .releasing, weight := 0 }) with
                  leaving := some k } }).recompute).markHandover

/-- The ask of a CARRYING bay that finds the slot IDLE (R27). -/
def State.tryStart (s : State) (k : Station) (origin : Origin) : State :=
  if coverFor s.config.reserve s.roster.record k then s.startHandover k origin
  else s.sendTo k (.releaseNo .noCover)

/-- The head of the wait list is examined (R35). -/
def State.serveOne (s : State) (before : Roster) (w : Waiter) : State :=
  match rosterEntry s.roster.record w.station with
  | none => s.sendTo w.station (.releaseNo .unknown)
  | some e =>
    match e.state with
    | .freed | .lost => s.sendTo w.station (.releaseNo .unknown)
    | .seated | .ready | .faulted => s.releaseWithout before w.station w.origin
    | .carrying => s.tryStart w.station w.origin
    | .releasing => s

/-- The wait list is served while the slot is IDLE and the episode state is CALM (R35). -/
def State.serveFrom (before : Roster) : Nat → State → State
  | 0, s => s
  | n + 1, s =>
    if s.roster.slot.isSome || s.coord.state != .calm then s
    else
      match s.roster.waitList with
      | [] => s
      | w :: rest =>
        State.serveFrom before n ((s.withUnit fun u => { u with waitList := rest }).serveOne before w)

/-- The wait list is served (R35). -/
def State.serveList (s : State) (before : Roster) : State :=
  State.serveFrom before s.roster.waitList.length s

/-- A handover completes, its leaving entry changed as R34 or R38 gives (R34). -/
def State.completeHandover (s : State) (before : Roster) (sl : Slot) (evidence : EndEvidence) : State :=
  let ended := s.endSlot
  ((ended.hand (.swap (ended.swapOf before sl .complete evidence false))).recompute).serveList before

/-- The reason an abort gives the leaving bay (R36). -/
def abortReason : SwapOutcome → ReleaseReason
  | .timeout => .timeout
  | .coverLost => .coverLost
  | _ => .fault

/-- Step 1 of an abort: a leaving entry that is still RELEASING becomes CARRYING, and the bay summary last held
for the station is applied to it by R4 (R36). -/
def State.restoreLeaving (s : State) (k : Station) : State :=
  if stateIs s.roster.record k .releasing then
    let back := s.withRecord fun r => mapEntry r k fun e => { e with state := .carrying }
    match (s.peer k).bay with
    | some b => back.withRecord fun r => settleRoster r k b ((s.peer k).shock.getD .calm)
    | none => back
  else s

/-- A handover is aborted (R36). -/
def State.abortHandover (s : State) (before : Roster) (sl : Slot) (outcome : SwapOutcome) : State :=
  let ended := ((s.restoreLeaving sl.leaving).endSlot).recompute
  let told := ended.sendTo sl.leaving (.releaseNo (abortReason outcome))
  ((told.hand (.swap (told.swapOf before sl outcome .none true))).setCond .swapAbort).serveList before

/-- The leaving bay has lost its pack, its entry being LOST or removed (R38). -/
def State.loseLeaving (s : State) (before : Roster) (sl : Slot) : State :=
  if sl.letGoSent then s.completeHandover before sl .lost
  else
    let ended := s.endSlot.recompute
    (ended.hand (.swap (ended.swapOf before sl .yanked .none false))).serveList before

/-! ### Roster change triggers -/

/-- Takers leave as lost takers: without cover left the handover is aborted while LET-GO has not been sent, and
otherwise it goes on, its allocation recomputed where the event is a trigger (R37). -/
def State.loseTakers (s : State) (before : Roster) (sl : Slot) (gone : List Station) (isTrigger : Bool) : State :=
  let left := sl.dropTakers gone true
  let t := s.withUnit fun u => { u with slot := some left }
  if !gone.isEmpty && !sl.letGoSent && !coverFor s.config.reserve s.roster.record sl.leaving then
    t.abortHandover before left .coverLost
  else if isTrigger then t.recompute else t

/-- A roster change trigger (R7): takers whose entries are no longer CARRYING, and those named as departing,
leave (R37), and the allocation is recomputed. -/
def State.trigger (s : State) (before : Roster) (departing : List Station := []) : State :=
  match s.roster.slot with
  | none => s.recompute
  | some sl =>
    s.loseTakers before sl
      (sl.takers.filter fun k => !stateIs s.roster.record k .carrying || departing.contains k) true

/-- A changed roster is published: the load is sampled, the version advances and a ROSTER is queued
(R12, R14). The publish timer restarts whether or not the queue takes the note. DESIGN CHOICE, log entry 51. -/
def State.publish (s : State) : State :=
  let t := s.withUnit fun u =>
    { u with
      record := { u.record with load := s.pins.load, version := countUp u.record.version }
      publishTimer := some Config.publishMs }
  t.sendAll (.roster t.roster.record)

/-- Both ends of the handover are met in SHIFTING (R30, R31, R32). -/
def Slot.endsMet (sl : Slot) : Bool :=
  sl.phase == .shifting && sl.drained && sl.takers.all fun k => sl.confirmed.contains k

/-- The test of R32: LET-GO is queued and the slot enters FREEING. -/
def State.letGoTest (s : State) : State :=
  match s.roster.slot with
  | some sl =>
    if sl.endsMet then
      (s.sendTo sl.leaving (.letGo .handover)).withUnit fun u =>
        { u with slot := some { sl with letGoSent := true, phase := .freeing },
                 handoverTimer := some Config.handoverMs }
    else s
  | none => s

/-- An event taken by the Roster Unit: its work on the record as it stood before the event, then the version and
the ROSTER of a change (R12), then the test of R32. DEDUCED for this order, log entry 17. -/
def State.rosterEvent (s : State) (work : Roster → State → State) : State :=
  let before := s.roster.record
  let t := work before s
  (if t.publishing && t.roster.record != before then t.publish else t).letGoTest

/-! ### Silence (R6, R37) -/

/-- The record still shows a station's silence as it was before this event: its peer entry has changed since (R6,
R180). -/
def State.lags (s : State) (k : Station) : Bool :=
  s.rosterActive && s.roster.record.entries.any fun e => e.station == k && e.silent != (s.peer k).silent

/-- The silent flag of a station's entry as the peer table holds it (R6). -/
def State.sync (s : State) (k : Station) : State :=
  s.withRecord fun r => mapEntry r k fun e => { e with silent := (s.peer k).silent }

/-- A change of a station's silent flag is copied into its entry, where the record has not taken it yet (R6). -/
def State.showSilence (s : State) (k : Station) : State := if s.lags k then s.sync k else s

/-- The station that departs from the takers by its silence (R37). -/
def State.departing (s : State) (k : Station) : List Station := if (s.peer k).silent then [k] else []

/-- A change of a station's silent flag that the record has not taken yet is a roster change trigger; a taker that
becomes silent departs (R6, R7, R37). -/
def State.takeSilence (s : State) (before : Roster) (k : Station) : State :=
  if s.lags k then (s.sync k).trigger before (s.departing k) else s

/-- A change of a station's silent flag as an event of its own (R6, R37). -/
def State.rosterSilence (s : State) (k : Station) : State :=
  if s.lags k then s.rosterEvent fun before t => t.takeSilence before k else s

/-! ### What the Roster Unit takes -/

/-- A note of a station that is a trigger itself: the end of its sender's silence is copied into the entry first, and
the note's work then makes the one recomputation of the event (R6, R7, R12, R180). DEDUCED, log entry 50. -/
def State.noteEvent (s : State) (k : Station) (work : Roster → State → State) : State :=
  s.rosterEvent fun before t => work before (t.showSilence k)

/-- A note of a station that is no trigger: the end of its sender's silence is taken first, with its recomputation, and
then the note, in one event (R6, R7, R12, R180). DEDUCED, log entry 50. -/
def State.quietEvent (s : State) (k : Station) (work : Roster → State → State) : State :=
  s.rosterEvent fun before t => work before (t.takeSilence before k)

/-- The entry of a station becomes a state, as a bay note gives (R5). -/
def noteState (r : Roster) (k : Station) (st : EntryState) : Roster :=
  mapEntry r k fun e => { e with state := st }

/-- The slot while it names a leaving station. -/
def RosterUnit.leavingSlot (u : RosterUnit) (k : Station) : Option Slot :=
  match u.slot with
  | some sl => if sl.leaving = k then some sl else none
  | none => none

/-- An active Roster Unit takes a note of a station that has an entry (R5). -/
def State.onEntry (s : State) (k : Station) (work : Roster → State → State) : State :=
  if s.rosterActive && (rosterEntry s.roster.record k).isSome then s.noteEvent k work else s

/-- LOST (R5, R38). -/
def State.rosterLost (s : State) (k : Station) : State :=
  s.onEntry k fun before t =>
    let moved := t.withRecord fun r => noteState r k .lost
    match t.roster.leavingSlot k with
    | some sl => moved.loseLeaving before sl
    | none => moved.trigger before

/-- FAULT (R5, R39). -/
def State.rosterFault (s : State) (k : Station) : State :=
  s.onEntry k fun before t =>
    let moved := t.withRecord fun r => noteState r k .faulted
    match t.roster.leavingSlot k with
    | some sl => if sl.letGoSent then moved.trigger before else moved.abortHandover before sl .faulted
    | none => moved.trigger before

/-- GONE (R5, R34). -/
def State.rosterGone (s : State) (k : Station) : State :=
  s.onEntry k fun before t =>
    let moved := t.withRecord fun r => noteState r k .freed
    match t.roster.leavingSlot k with
    | some sl => moved.completeHandover before sl .gone
    | none => moved.trigger before

/-- A taker is confirmed (R30). -/
def Slot.confirm (sl : Slot) (k : Station) : Slot :=
  if sl.takers.contains k then { sl with confirmed := unionStations sl.confirmed [k] } else sl

/-- The slot with a taker confirmed, if it is BUSY (R30). -/
def State.confirmTaker (s : State) (k : Station) : State :=
  s.withUnit fun u => { u with slot := u.slot.map fun sl => sl.confirm k }

/-- TAKEN: the taker is confirmed before the trigger's recomputation (R5, R30). DEDUCED, log entry 47. -/
def State.rosterTaken (s : State) (k : Station) : State :=
  s.onEntry k fun before t => (t.confirmTaker k).trigger before

/-- The leaving station's drained mark (R31). -/
def State.markDrained (s : State) (k : Station) : State :=
  match s.roster.leavingSlot k with
  | some sl => s.withUnit fun u => { u with slot := some { sl with drained := true } }
  | none => s

/-- DRAINED (R31). -/
def State.rosterDrained (s : State) (k : Station) : State :=
  if s.rosterActive then s.quietEvent k fun _ t => t.markDrained k else s

/-- A bay beacon from a station without an entry (R3). -/
def State.enterBay (s : State) (before : Roster) (k : Station) (b : BaySummary) (shock : ShockState) : State :=
  match enteredAs b.state with
  | none => s
  | some st =>
    if s.roster.record.entries.length ≥ 3 then s.setCond .bayExcess
    else
      (s.withRecord fun r =>
        { r with entries := insertEntry (newEntry k st b shock (s.peer k).silent) r.entries }).trigger before

/-- A bay beacon from a station with an entry (R4, R33, R38, R39), which may bring the end of the station's silence as
news (R6). A leaving entry that is FAULTED since LET-GO (R33) is moved by R4 like any other. DEDUCED, log entry 67. -/
def State.followBay (s : State) (before : Roster) (k : Station) (e : Entry) (b : BaySummary) (shock : ShockState)
    (news : Bool) : State :=
  let moved := s.withRecord fun r => settleRoster r k b shock
  let changed := match settleEntry e b shock with
    | some e' => beaconTriggers s.config.reserve e e'
    | none => true
  let plain := if changed || news then moved.trigger before else moved
  match s.roster.leavingSlot k with
  | none => plain
  | some sl =>
    if b.state = .empty ∨ b.state = .lost then moved.loseLeaving before sl
    else if b.state = .freed ∧ sl.phase = .freeing then
      (moved.withRecord fun r => noteState r k .freed).completeHandover before sl .beacon
    else if stateIs moved.roster.record k .faulted && !sl.letGoSent then moved.abortHandover before sl .faulted
    else plain

/-- A BEACON of a BAY station (R3, R4, R30). -/
def State.rosterBeacon (s : State) (k : Station) (b : BaySummary) (shock : ShockState) : State :=
  if s.rosterActive then
    s.noteEvent k fun before t =>
      match rosterEntry t.roster.record k with
      | none => t.enterBay before k b shock
      | some e =>
        let followed := t.followBay before k e b shock (s.lags k)
        if b.state = .carrying ∧ b.pathClosed = true then followed.confirmTaker k else followed
  else s

/-- The ADAPTER sense line changes (R7). While DEFERRED no roster is built; DEDUCED, log entry 24. -/
def State.rosterAdapter (s : State) (present : Bool) : State :=
  if s.rosterActive then
    s.rosterEvent fun before t => (t.withRecord fun r => { r with adapter := present }).trigger before
  else if s.plays .base then s.withRecord fun r => { r with adapter := present }
  else s

/-- What an ask finds, by the table of R25 (R25 to R28). -/
def State.takeAsk (s : State) (before : Roster) (k : Station) (origin : Origin) : State :=
  match rosterEntry s.roster.record k with
  | none => s.sendTo k (.releaseNo .unknown)
  | some e =>
    if e.state = .freed ∨ e.state = .lost then s.sendTo k (.releaseNo .unknown)
    else if s.coord.state ≠ .calm then s.sendTo k (.releaseNo .held)
    else if e.state = .seated ∨ e.state = .ready ∨ e.state = .faulted then s.releaseWithout before k origin
    else if (s.roster.leavingSlot k).isSome || s.roster.waitList.any fun w => w.station == k then s
    else if s.roster.slot.isSome then
      if s.roster.waitList.length < 2 then
        (s.withUnit fun u => { u with waitList := u.waitList ++ [{ station := k, origin := origin }] }).sendTo
          k (.releaseWait (s.roster.waitList.length + 1))
      else s.sendTo k (.releaseNo .full)
    else s.tryStart k origin

/-- RELEASE-ASK (R25 to R28). -/
def State.rosterAsk (s : State) (k : Station) (origin : Origin) : State :=
  if s.publishing then s.quietEvent k fun before t => t.takeAsk before k origin else s

/-- The handover timer expires (R23, R33, R36). -/
def State.rosterTimeout (s : State) : State :=
  if s.publishing && s.roster.handoverTimer.isSome then
    s.rosterEvent fun before t =>
      match t.roster.slot with
      | some sl =>
        match sl.phase with
        | .shifting => t.abortHandover before sl .timeout
        | .freeing =>
          (t.sendTo sl.leaving (.letGo .handover)).withUnit fun u =>
            { u with handoverTimer := some Config.handoverMs }
        | .suspended => t
      | none => t
  else s

/-- The publish timer expires: the load is sampled, and a ROSTER is queued whether or not it changed (R14). -/
def State.rosterPublish (s : State) : State :=
  if s.publishing && s.roster.publishTimer.isSome then
    if s.roster.record.load = s.pins.load then
      (s.withUnit fun u => { u with publishTimer := some Config.publishMs }).sendAll (.roster s.roster.record)
    else s.publish
  else s

/-! ### The slot and the episode (R40 to R42) -/

/-- The episode state leaves CALM (R40). -/
def State.suspendSlot (s : State) : State :=
  match s.roster.slot with
  | some sl =>
    if sl.phase = .suspended then s
    else
      s.withUnit fun u =>
        { u with slot := some { sl with phase := .suspended, suspensions := satUp 255 sl.suspensions }
                 handoverTimer := none }
  | none => s

/-- The judgement of R41 on a SUSPENDED slot: failed takers leave, with those named as departing, then a failed leaving
bay ends the handover. The allocation is recomputed where the event is a trigger. -/
def State.judge (s : State) (before : Roster) (failed : Station → Bool) (departing : List Station := [])
    (isTrigger : Bool := false) : State :=
  match s.roster.slot with
  | some sl =>
    if sl.phase = .suspended then
      let gone := sl.takers.filter fun k => failed k || departing.contains k
      if failed sl.leaving then
        (s.withUnit fun u => { u with slot := some (sl.dropTakers gone true) }).abortHandover before
          (sl.dropTakers gone true) .coverLost
      else s.loseTakers before sl gone isTrigger
    else if isTrigger then s.trigger before departing else s
  | none => if isTrigger then s.recompute else s

/-- The judgement at an event that may bring a change of a station's silent flag as news: the flag is copied first, and
one recomputation stands for both (R6, R7, R41, R180). DEDUCED, log entry 50. -/
def State.judgeAt (s : State) (before : Roster) (failed : Station → Bool) : Option Station → State
  | some k =>
    if s.lags k then (s.sync k).judge before failed (s.departing k) true else s.judge before failed
  | none => s.judge before failed

/-- The episode state returns to CALM: a SUSPENDED slot resumes, and an IDLE slot has its wait list served
(R35, R42). -/
def State.resumeSlot (s : State) (before : Roster) : State :=
  match s.roster.slot with
  | some sl =>
    if sl.phase = .suspended then
      s.withUnit fun u =>
        { u with slot := some { sl with phase := if sl.letGoSent then .freeing else .shifting }
                 handoverTimer := some Config.handoverMs }
    else s
  | none => s.serveList before

/-! ### DEFERRED (R16) -/

/-- The Roster Unit on entering DEFERRED (R16). R12 advances the version at each change that an event in RUNNING
makes, and R16's actions on entering DEFERRED name no version: that this change of the record leaves the version as it
is is the model's choice. DESIGN CHOICE, log entry 87. -/
def State.emptyRoster (s : State) : State :=
  s.withUnit fun u =>
    { u with record := { u.record with entries := [], leaving := none }
             slot := none, waitList := [], handoverTimer := none, publishTimer := none }

/-- A seated bay of the peer table is entered (R3, R16); a fourth sets BAY_EXCESS (log entry 46). -/
def State.adoptBay (s : State) (k : Station) : State :=
  let p := s.peer k
  if p.role = some .bay then
    match p.bay with
    | some b =>
      match enteredAs b.state with
      | some st =>
        if s.roster.record.entries.length ≥ 3 then s.setCond .bayExcess
        else
          s.withRecord fun r =>
            { r with entries := insertEntry (newEntry k st b (p.shock.getD .calm) p.silent) r.entries }
      | none => s
    | none => s
  else s

/-- The Roster Unit on leaving DEFERRED: the roster, empty since DEFERRED was entered, is rebuilt from the peer
table, and in RUNNING its version advances and it is published (R16). The bays are entered in ascending station
order, so of more than three the three lowest are. DESIGN CHOICE, log entry 46. -/
def State.rebuildRoster (s : State) : State :=
  let t := (stations.foldl State.adoptBay (s.withRecord fun r => { r with entries := [] })).recompute
  if t.publishing then t.publish else t

/-- The first ROSTER, at the entry to RUNNING (R15). -/
def State.firstRoster (s : State) : State :=
  let t := (s.withUnit fun u =>
    { u with record := { u.record with load := s.pins.load }, publishTimer := some Config.publishMs }).recompute
  t.sendAll (.roster t.roster.record)

end Sys2Proof.Machine
end

