-- ==== Sys2Proof/Machine/Monitor.lean ====
section
/-! DEFINITION. The Shock Monitor (R100 to R118) and the episode coordinator (R121 to R132): how an episode
starts, is interrupted and ends, and what the other blocks of the station take from it (R115). -/

namespace Sys2Proof.Machine

/-- The state with the coordinator changed. -/
def State.withCoord (s : State) (f : Coordinator → Coordinator) : State := { s with coord := f s.coord }

/-- The alert line driven or released (R105). -/
def State.driveLa (s : State) (on : Bool) : State := { s with link := { s.link with laDrive := on } }

/-- The record in progress changed. -/
def Shock.mapEpisode (k : Shock) (f : Episode → Episode) : Shock := { k with episode := k.episode.map f }

/-! ### The coordinator's lists (R121 to R129) -/

/-- A new participant (R122). -/
def newParticipant (k : Station) : Participant := { station := k }

/-- The stations a new episode names: seen, LID or BAY, not silent (R122). -/
def State.participantsNow (s : State) : List Participant :=
  (stations.filter fun k =>
    (s.peer k).seen && ((s.peer k).role == some .lid || (s.peer k).role == some .bay) && !(s.peer k).silent).map
    newParticipant

/-- The coordinator opens with the new episode count, and the slot is suspended (R40, R122). -/
def State.openCoordinator (s : State) : State :=
  (s.withCoord fun _ =>
    { state := .opened, count := s.shock.count, participants := s.participantsNow, extras := [],
      closing := none }).suspendSlot

/-- The coordinator runs: a BASE, awake, not DEFERRED (R121). -/
def State.coordinates (s : State) : Bool := s.rosterActive

/-- An entry of either list that a SETTLED answers (R124). -/
def settledEntry (k : Station) (b : SettledNote) : Participant :=
  { station := k, result := some b.result, peak := b.peak, axis := b.axis, impacts := b.impacts,
    dropped := false, mark := .settled }

/-- An entry at its place in ascending station order. -/
def insertParticipant (p : Participant) : List Participant → List Participant
  | [] => [p]
  | q :: rest =>
    if q.station < p.station then q :: insertParticipant p rest
    else if q.station = p.station then p :: rest
    else p :: q :: rest

/-- A station stands in a list. -/
def standsIn (k : Station) (l : List Participant) : Bool := l.any fun p => p.station == k

/-- The coordinator takes a SETTLED (R124). -/
def Coordinator.take (c : Coordinator) (k : Station) (b : SettledNote) : Coordinator :=
  if standsIn k c.participants then { c with participants := insertParticipant (settledEntry k b) c.participants }
  else { c with extras := insertParticipant (settledEntry k b) c.extras }

/-- An IMPACT raises a participant's peak (R123). -/
def Participant.raisePeak (p : Participant) (k : Station) (magnitude : Nat) (axis : Axis) : Participant :=
  if p.station = k ∧ magnitude > p.peak then { p with peak := magnitude, axis := axis } else p

/-- A participant without a result falls silent (R125). -/
def Participant.drop (p : Participant) (k : Station) : Participant :=
  if p.station = k ∧ p.result = none then { p with dropped := true } else p

/-- The close test is met (R126). -/
def Coordinator.answered (c : Coordinator) : Bool := c.participants.all fun p => p.mark == .settled || p.dropped

/-- A participant without a result is marked UNSETTLED (R126, R127). -/
def Participant.giveUp (p : Participant) : Participant :=
  if p.result = none then { p with mark := .unsettled } else p

/-- The entries of both lists with their extra flags, ascending by station (R129). -/
def Coordinator.entries (c : Coordinator) : List (Participant × Bool) :=
  stations.flatMap fun k =>
    ((c.participants.filter fun p => p.station == k).map fun p => (p, false))
    ++ (c.extras.filter fun p => p.station == k).map fun p => (p, true)

/-- The number of entries marked SETTLED (R128, R129). -/
def Coordinator.settledCount (c : Coordinator) : Nat := c.entries.countP fun e => e.1.mark == .settled

/-- The stations marked UNSETTLED, ascending (R128). -/
def Coordinator.unsettled (c : Coordinator) : List Station :=
  (c.entries.filter fun e => e.1.mark == .unsettled).map fun e => e.1.station

/-- The result of an entry in the summary's station list (R129). -/
def summaryResult (p : Participant) : SummaryResult :=
  match p.mark, p.result with
  | .settled, some .ok => .ok
  | .settled, some .fault => .fault
  | .unsettled, _ => .unsettled
  | _, _ => .none

/-- The fields the summary record adds (R129). -/
def Coordinator.summary (c : Coordinator) (reason : CloseReason) : EpisodeSummary where
  reason := reason
  settledCount := c.settledCount
  participantCount := c.participants.length
  stations := c.entries.map fun e =>
    { station := e.1.station, peak := e.1.peak, result := summaryResult e.1, extra := e.2 }

/-- A station is judged failed at a close with CALM: its result is FAULT or it is marked UNSETTLED (R41). -/
def Coordinator.failedAtCalm (c : Coordinator) (k : Station) : Bool :=
  c.entries.any fun e => e.1.station == k && (e.1.result == some .fault || e.1.mark == .unsettled)

/-- A station is judged failed at an INTERRUPTED close: its result is FAULT (R41). -/
def Coordinator.failedAtInterruption (c : Coordinator) (k : Station) : Bool :=
  c.entries.any fun e => e.1.station == k && e.1.result == some .fault

/-! ### Starting an episode (R102 to R105, R115, R118) -/

/-- A handover runs, as the station sees it (R118). -/
def State.handoverSeen (s : State) : Bool :=
  if s.sys.role = .base then s.roster.slot.isSome else s.imageLeaving

/-- A new record in progress (R102, R103, R104). Its peak starts at 0 and X: the samples of the free-fall run that
starts an own episode do not count for it. DESIGN CHOICE, log entry 75. -/
def State.newEpisode (s : State) (count : Nat) (source : Source) (station : Option Station) (fallStart : Nat) :
    Episode where
  drop :=
    { count := count, source := source, sourceStation := station, fallDuration := 0, impactCount := 0, peak := 0,
      axis := .x, outcome := .noImpact, calmBy := .none, duringHandover := s.handoverSeen, checkResult := none }
  checkPending := false
  fallStart := fallStart
  fallingAt := s.sys.clock
  durationFixed := false

/-- The Shock Monitor's fields at the start of an episode (R103, R104). -/
def State.beginEpisode (s : State) (source : Source) (station : Option Station) (fallStart : Nat) : State :=
  s.withShock fun k =>
    { k with
      state := .falling
      count := countUp k.count
      fallWindow := some Config.fallWindowMs
      episode := some (s.newEpisode (countUp k.count) source station fallStart) }

/-- An own fall, but for the reactions (R103). The fall start is taken to lie the fall time before this sample,
DEDUCED, log entry 42. -/
def State.beginOwn (s : State) : State :=
  let t := (s.beginEpisode .own none (s.sys.clock - s.config.fallTime)).driveLa true
  t.sendAll (.fall t.shock.count s.config.fallTime)

/-- A remote fall, but for the reactions (R104). -/
def State.beginRemote (s : State) (station : Option Station) : State :=
  s.beginEpisode .remote station s.sys.clock

/-- The blocks at the leaving of CALM (R115). -/
def State.leaveCalm (s : State) : State :=
  let cut := s.cutStream .shockCut
  match s.sys.role with
  | .lid => (cut.overtakeTest fun t => t != .checking).panelEvent id
  | .base => if cut.coordinates then cut.openCoordinator else cut
  | .bay | .console => cut

/-- An own fall in CALM (R103). -/
def State.ownFall (s : State) : State := s.beginOwn.leaveCalm

/-- A remote fall in CALM (R104). -/
def State.remoteFall (s : State) (station : Option Station) : State := (s.beginRemote station).leaveCalm

/-- The alert line is tested in CALM: seen high while this station does not drive it (R104). -/
def State.lineTest (s : State) : State :=
  if s.shock.state = .calm ∧ s.pins.laOthers = true ∧ s.link.laDrive = false then s.remoteFall none else s

/-! ### The end of an episode (R111 to R113, R127) -/

/-- The outcome of a record that is not interrupted (R117). -/
def dropOutcome (d : DropRecord) : DropOutcome := if d.impactCount > 0 then .impact else .noImpact

/-- A record closed at a return to CALM (R113). -/
def Episode.closeCalm (e : Episode) (by' : CalmBy) : Episode :=
  { e with drop := { e.drop with calmBy := by', outcome := dropOutcome e.drop } }

/-- The Shock Monitor in CALM, its record taken out (R113, steps 1 and 2). A SETTLED still owed from LISTEN will be
sent after the return to CALM, so it is late (R110). DEDUCED, log entry 60. -/
def Shock.calm (k : Shock) : Shock :=
  { k with state := .calm, checking := none, calmOwed := false, freeFall := 0, episode := none,
           settledOwed := k.settledOwed.map fun n => { n with late := true } }

/-- The closed record is handed over, or kept until its result comes (R113, step 3). -/
def State.closeEpisodeRecord (s : State) (e : Episode) : State :=
  if e.checkPending then s.withShock fun k => { k with closed := some e } else s.hand (.drop e.drop none)

/-- The blocks at the return to CALM (R115). -/
def State.roleCalm (s : State) : State :=
  match s.sys.role with
  | .bay => s.bayCalm
  | .lid => s.panelEvent id
  | .base | .console => s

/-- A return to CALM of a station's own episode (R113). -/
def State.returnCalm (s : State) (by' : CalmBy) : State :=
  let t := s.withShock Shock.calm
  let closed := match s.shock.episode with
    | some e => t.closeEpisodeRecord (e.closeCalm by')
    | none => t
  ((closed.setCond .episodeEnd).roleCalm).lineTest

/-- CALM is queued, unless the BASE is in LISTEN (R128). -/
def State.sendCalm (s : State) (reason : CloseReason) : State :=
  if s.running then
    s.sendAll (.calm s.coord.count reason s.coord.settledCount s.coord.unsettled)
  else s

/-- Steps 1 to 5 of a close by R127, as an event of the Roster Unit, with a change of silence that the same event
brings. The steps stand in the order of R127, so the RELEASE-NO
of an abort at the judgement is queued ahead of CALM; the worked sequence of the same chapter tells of CALM first.
DEDUCED, log entry 16. -/
def State.closeWork (reason : CloseReason) (news : Option Station) (before : Roster) (s : State) : State :=
  let marked := s.withCoord fun c => { c with participants := c.participants.map Participant.giveUp }
  let told := (marked.judgeAt before marked.coord.failedAtCalm news).sendCalm reason
  let calm := (told.withCoord fun c => { c with state := .calm, closing := none }).withShock Shock.calm
  (calm.setCond .episodeEnd).resumeSlot before

/-- The coordinator closes the episode with ALL_SETTLED or TIMEOUT (R127). The whole close is one roster event,
DEDUCED, log entry 16. -/
def State.closeEpisode (s : State) (reason : CloseReason) (news : Option Station := none) : State :=
  let closed := s.rosterEvent (State.closeWork reason news)
  let recorded := match s.shock.episode with
    | some e => closed.hand (.drop (e.closeCalm .base).drop (some (closed.coord.summary reason)))
    | none => closed
  (recorded.withCoord fun _ => {}).lineTest

/-- The close test, made in CLOSING (R126). -/
def State.closeTest (s : State) (news : Option Station := none) : State :=
  if s.coord.state = .closing ∧ s.coord.answered = true then s.closeEpisode .allSettled news else s

/-! ### Interruption (R114, R130) -/

/-- A record closed by an interruption (R114). -/
def Episode.closeInterrupted (e : Episode) : Episode :=
  { e with drop := { e.drop with calmBy := .none, outcome := .interrupted }, checkPending := false }

/-- The coordinator's episode closes INTERRUPTED (R130, steps 1 to 4). -/
def State.interruptCoordinator (s : State) (news : Option Station := none) : State :=
  let judged := s.rosterEvent fun before t => t.judgeAt before t.coord.failedAtInterruption news
  let recorded := match s.shock.episode with
    | some e => judged.hand (.drop e.closeInterrupted.drop (some (judged.coord.summary .interrupted)))
    | none => judged
  recorded.withCoord fun _ => {}

/-- The role check of an interrupted episode is awaited by no record (R114, R96). A BAY's check runs on as a plain pack
check, and no SETTLED is queued at its end. DESIGN CHOICE, log entry 66. -/
def State.dropRoleCheck (s : State) : State :=
  match s.sys.role with
  | .lid => if s.shock.state = .checking then s.overtakeTest fun t => t == .checking else s
  | .bay => if s.shock.closedAwaits then s else s.withBay fun b => { b with checkForRole := false }
  | .base | .console => s

/-- The episode in progress closes INTERRUPTED (R114, steps 1 and 2). -/
def State.closeForInterruption (s : State) (news : Option Station := none) : State :=
  let recorded :=
    if s.coordinates && s.coord.state != .calm then s.interruptCoordinator news
    else match s.shock.episode with
      | some e => s.hand (.drop e.closeInterrupted.drop none)
      | none => s
  recorded.dropRoleCheck.withShock fun k => { k with checking := none, calmOwed := false }

/-- The coordinator opens again after an interruption where it was open (R130, step 5). -/
def State.reopen (s : State) (was : EpisodeState) : State :=
  if s.coordinates && was != .calm then s.openCoordinator else s

/-- An own fall interrupts the episode (R114). -/
def State.interruptOwn (s : State) : State := (s.closeForInterruption.beginOwn).reopen s.coord.state

/-- A line rise or a FALL note interrupts the episode; the sender of a FALL may have been silent (R114). -/
def State.interruptRemote (s : State) (station : Option Station) : State :=
  ((s.closeForInterruption station).beginRemote station).reopen s.coord.state

/-- SETTLING or CHECKING: the states an episode can be interrupted in (R114). -/
def Shock.interruptible (k : Shock) : Bool := k.state == .settling || k.state == .checking

/-! ### The alert line and FALL (R104, R114) -/

/-- A change of what other stations drive on LA (R104, R114, R169). -/
def State.lineChange (s : State) (others : Bool) : State :=
  let t := { s with pins := { s.pins with laOthers := others } }
  if s.awake then
    if !s.laHigh && t.laHigh && s.shock.interruptible then t.interruptRemote none else t.lineTest
  else t

/-- A FALL note (R104, R114). An end of its sender's silence is taken before the slot is suspended. DEDUCED, log
entry 50. -/
def State.takeFall (s : State) (sender : Station) : State :=
  match s.shock.state with
  | .calm => (s.rosterSilence sender).remoteFall (some sender)
  | .settling | .checking => s.interruptRemote (some sender)
  | .falling | .impact =>
    s.withShock fun k => k.mapEpisode fun e =>
      if e.drop.source = .remote ∧ e.drop.sourceStation = none then
        { e with drop := { e.drop with sourceStation := some sender } }
      else e

/-! ### Samples (R100, R106 to R110) -/

/-- A run after a sample: one longer where the sample counts, 0 where it does not (R100). -/
def runAfter (counts : Bool) (run : Nat) : Nat := if counts then run + 1 else 0

/-- The peak of the record after a sample; of equal magnitudes the first keeps its axis (R106, R117). A sample
of any state but CALM counts; DEDUCED, log entry 43. -/
def Episode.track (magnitude : Nat) (axis : Axis) (e : Episode) : Episode :=
  if magnitude > e.drop.peak then { e with drop := { e.drop with peak := magnitude, axis := axis } } else e

/-- The fall duration fixed at the end of FALLING (R106, R107). -/
def Episode.fixDuration (fallTime falling : Nat) (e : Episode) : Episode :=
  if e.durationFixed then e
  else
    { e with
      durationFixed := true
      drop := { e.drop with fallDuration := if e.drop.source = .own then fallTime + falling else falling } }

/-- One more impact (R106, R110). -/
def Episode.countImpact (e : Episode) : Episode :=
  { e with drop := { e.drop with impactCount := satUp 255 e.drop.impactCount, outcome := .impact } }

/-- Time spent in FALLING so far. -/
def State.falling (s : State) : Nat :=
  match s.shock.episode with
  | some e => s.sys.clock - e.fallingAt
  | none => 0

/-- The entry to IMPACT from FALLING or SETTLING (R106, R108). -/
def State.enterImpact (s : State) (magnitude : Nat) (axis : Axis) : State :=
  let t := s.withShock fun k =>
    { k.mapEpisode (fun e => (e.fixDuration s.config.fallTime s.falling).countImpact) with
      state := .impact, quiet := 0 }
  match t.shock.episode with
  | some e => t.sendAll (.impact e.drop.count e.drop.impactCount magnitude axis)
  | none => t

/-- The entry to SETTLING, which releases LA (R105, R107). -/
def State.enterSettling (s : State) : State :=
  (s.withShock fun k => { k with state := .settling, rest := 0, freeFall := 0 }).driveLa false

/-- The role check asked for on entry to CHECKING (R109). -/
def State.askRoleCheck (s : State) : State :=
  match s.sys.role with
  | .bay => s.bayRoleCheck
  | .lid => s.startTest .checking
  | .base | .console => s.withShock fun k => k.mapEpisode fun e => e.take .ok

/-- The entry to CHECKING (R109, R111, R126). -/
def State.enterChecking (s : State) : State :=
  let t := s.withShock fun k =>
    { k.mapEpisode (fun e => { e with checkPending := true }) with
      state := .checking, freeFall := 0, checking := some Config.checkingMs }
  let asked := t.askRoleCheck
  if asked.coordinates && asked.coord.state == .opened then
    (asked.withCoord fun c => { c with state := .closing, closing := some Config.closingMs }).closeTest
  else if asked.shock.calmOwed then asked.returnCalm .base
  else asked

/-- A sample in CALM (R103). -/
def State.sampleCalm (s : State) (magnitude : Nat) : State :=
  let run := runAfter (magnitude < s.config.freeFallThreshold) s.shock.freeFall
  let t := s.withShock fun k => { k with freeFall := run }
  if run ≥ s.config.fallTime then t.ownFall else t

/-- A sample in IMPACT (R107). -/
def State.sampleImpact (s : State) (magnitude : Nat) : State :=
  let run := runAfter (magnitude < s.config.impactThreshold) s.shock.quiet
  let t := s.withShock fun k => { k with quiet := run }
  if run ≥ Config.quietRun then t.enterSettling else t

/-- The free-fall run has reached the fall time (R103, R108, R110). -/
def State.runFalls (s : State) : State :=
  match s.shock.state with
  | .calm => s.ownFall
  | .settling | .checking => s.interruptOwn
  | .falling | .impact => s

/-- The runs of SETTLING after a sample (R100). -/
def Shock.settlingRuns (k : Shock) (threshold magnitude : Nat) : Shock :=
  { k with
    rest := runAfter (12 ≤ magnitude && magnitude ≤ 20) k.rest
    freeFall := runAfter (magnitude < threshold) k.freeFall }

/-- A sample in SETTLING (R108). A sample that fills both runs enters CHECKING by the rest run, and the own fall of
the free-fall run follows; DEDUCED, log entry 32. -/
def State.sampleSettling (s : State) (magnitude : Nat) (axis : Axis) : State :=
  let t := s.withShock fun k => k.settlingRuns s.config.freeFallThreshold magnitude
  if magnitude ≥ s.config.impactThreshold then t.enterImpact magnitude axis
  else
    let rested := if t.shock.rest ≥ Config.restRun then t.enterChecking else t
    if t.shock.freeFall ≥ s.config.fallTime then rested.runFalls else rested

/-- A sample in CHECKING: a knock at rest, or a step of the free-fall run (R110). -/
def State.sampleChecking (s : State) (magnitude : Nat) : State :=
  let run := runAfter (magnitude < s.config.freeFallThreshold) s.shock.freeFall
  let t := s.withShock fun k => { k with freeFall := run }
  if magnitude ≥ s.config.impactThreshold then t.withShock fun k => k.mapEpisode Episode.countImpact
  else if run ≥ s.config.fallTime then t.interruptOwn
  else t

/-- A motion sample (R100). -/
def State.takeMotion (s : State) (magnitude : Nat) (axis : Axis) : State :=
  let t := s.withShock fun k => k.mapEpisode (Episode.track magnitude axis)
  match s.shock.state with
  | .calm => s.sampleCalm magnitude
  | .falling => if magnitude ≥ s.config.impactThreshold then t.enterImpact magnitude axis else t
  | .impact => t.sampleImpact magnitude
  | .settling => t.sampleSettling magnitude axis
  | .checking => t.sampleChecking magnitude

/-- The fall window expires (R105, R107). -/
def State.windowEnds (s : State) : State :=
  let t := (s.withShock fun k => { k with fallWindow := none }).driveLa false
  if s.shock.state = .falling then
    (t.withShock fun k => k.mapEpisode (Episode.fixDuration s.config.fallTime Config.fallWindowMs)).enterSettling
  else t

/-! ### CALM, IMPACT, SETTLED and silence (R111, R123 to R125) -/

/-- A CALM note; a BASE that is not DEFERRED takes none (R111, R132). -/
def State.takeCalm (s : State) : State :=
  if s.coordinates then s
  else match s.shock.state with
    | .checking => s.returnCalm .base
    | .settling => s.withShock fun k => { k with calmOwed := true }
    | .calm | .falling | .impact => s

/-- An IMPACT note (R123). -/
def State.takeImpact (s : State) (sender : Station) (magnitude : Nat) (axis : Axis) : State :=
  if s.coordinates && s.coord.state != .calm then
    s.withCoord fun c =>
      { c with participants := c.participants.map fun p => p.raisePeak sender magnitude axis }
  else s

/-- A SETTLED note (R124). -/
def State.takeSettled (s : State) (sender : Station) (b : SettledNote) : State :=
  if s.coordinates && s.coord.state != .calm && !b.late then
    (s.withCoord fun c => c.take sender b).closeTest (some sender)
  else s

/-- A participant falls silent (R125). -/
def State.coordSilence (s : State) (k : Station) : State :=
  if s.coordinates && s.coord.state != .calm then
    (s.withCoord fun c => { c with participants := c.participants.map fun p => p.drop k }).closeTest (some k)
  else s

/-- The checking timer expires (R112). A BASE whose coordinator runs ends its episode by its close alone;
DEDUCED, log entry 23. -/
def State.checkingEnds (s : State) : State :=
  if s.shock.state = .checking ∧ s.shock.checking.isSome = true
      ∧ (s.coordinates && s.coord.state != .calm) = false then s.returnCalm .timeout
  else s

/-- The closing timer expires (R126). -/
def State.closingEnds (s : State) : State :=
  if s.coordinates && s.coord.state == .closing && s.coord.closing.isSome then s.closeEpisode .timeout else s

end Sys2Proof.Machine
end

