-- ==== Sys2Proof/Machine/Operands.lean ====
section
/-! DEFINITION. How a note heard on LD reaches the blocks: the tests of R171, the peer table (R179, R180), the
acceptance table and check (R183, R184) and the violation capture (R185). -/

namespace Sys2Proof.Machine

/-! ### The peer table (R179, R180) -/

/-- A LID whose image comes from a station recomputes when that station's silence changes (R72, R75). -/
def State.relight (s : State) (k : Station) : State :=
  match s.image with
  | some i => if s.plays .lid && i.sender == k then s.panelEvent id else s
  | none => s

/-- Test 3 of R171: the sender's entry is refreshed (R179, R180); the end of the console's silence is told at once,
and makes the attention test (R190). -/
def State.heard (s : State) (k : Station) : State :=
  let t := s.setPeer k { s.peer k with seen := true, time := 0, silent := false }
  if (s.peer k).silent && k == 0 then (t.relight k).attentionTest else t

/-- A note of a station that was silent ends the silence: a roster or a panel that has not taken it with the note
itself takes it here, so that one event has one recomputation (R6, R7, R12, R72, R75, R180). `s` is the state before
the note, `t` the one after it. DEDUCED, log entry 50. -/
def State.attend (s : State) (k : Station) (t : State) : State :=
  if (s.peer k).silent && k != 0 then (t.rosterSilence k).relight k else t

/-- A note that no block of this station takes is heard (R171). -/
def State.hears (s : State) (k : Station) : State := s.attend k (s.heard k)

/-! ### Acceptance (R183 to R185) -/

/-- The console kinds (R183). -/
def consoleKind : Kind → Bool
  | .ask | .setLevel | .releaseBay | .testStrings | .resetStation | .attentionResume | .setMask | .readLog
  | .stopStream | .collect | .eraseRegion | .protectV | .protectNv | .clearNvAll | .lockNv | .writeConfig
  | .checkStore => true
  | _ => false

/-- The kinds that parts do not consume (R183). -/
def notConsumed : Kind → Bool
  | .reply | .storeDone | .seg | .streamEnd | .attention => true
  | _ => false

/-- The roles allowed to send a kind (R183). -/
def allowedSender (k : Kind) (r : Role) : Bool :=
  match k with
  | .fall | .impact | .settled | .reply | .storeDone | .seg | .streamEnd | .attention => r != .console
  | .lost | .fault | .taken | .drained | .gone | .releaseAsk => r == .bay
  | .calm | .roster | .letGo | .releaseNo | .releaseWait => r == .base
  | .beacon => true
  | .ask | .setLevel | .releaseBay | .testStrings | .resetStation | .attentionResume | .setMask | .readLog
  | .stopStream | .collect | .eraseRegion | .protectV | .protectNv | .clearNvAll | .lockNv | .writeConfig
  | .checkStore => r == .console

/-- A BASE with a lower number than the sender stands in the peer table without being silent (R184). -/
def State.lowerBase (s : State) (k : Station) : Bool := stations.any fun j => j < k && s.present j .base

/-- The acceptance check of a note that is not a BEACON (R184). -/
def State.violation (s : State) (kind : Kind) (sender : Station) : Option ViolationReason :=
  match (s.peer sender).role with
  | none => some .unknownSender
  | some r =>
    if !allowedSender kind r || (consoleKind kind && sender != 0) then some .roleMismatch
    else if kind == .roster && s.lowerBase sender then some .roleClash
    else none

/-- A violation is captured (R185). -/
def State.capture (s : State) (c : Capture) : State :=
  match s.link.capture with
  | none =>
    (({ s with link := { s.link with capture := some c, violations := 1 } } : State).setCond
      .acceptViolation).hand (.guard c)
  | some _ =>
    if s.link.violations ≥ 255 then { s with link := { s.link with overflow := true } }
    else { s with link := { s.link with violations := s.link.violations + 1 } }

/-- The target names this station or every station (R171, test 4). -/
def State.targeted (s : State) : Target → Bool
  | .all => true
  | .station n => n == s.sys.station

/-- A note that is not a BEACON is heard: tests 2 to 7 of R171. The time of a capture is the ms clock as it stands, also
past the 4294967295 of R185. DESIGN CHOICE, log entry 61. -/
def State.receive (s : State) (kind : Kind) (sender : Station) (target : Target) (deliver : State → State) :
    State :=
  if !s.awake || sender == s.sys.station then s
  else
    let t := s.heard sender
    if !t.targeted target then s.hears sender
    else match t.violation kind sender with
      | none => s.attend sender (deliver t)
      | some reason =>
        (s.hears sender).capture
          { reason := reason, sender := sender, kind := kind, target := target,
            roleHeld := (t.peer sender).role, time := t.sys.clock }

/-- A note that fails the form test is discarded, and LINK_NOISE is set (R171). -/
def State.noise (s : State) : State := if s.awake then s.setCond .linkNoise else s

/-- A console note is heard; the Console Service takes it in RUNNING alone (R194). -/
def State.receiveConsole (s : State) (kind : Kind) (sender : Station) (target : Target)
    (deliver : State → State) : State :=
  s.receive kind sender target fun t => if t.running then deliver t else t

end Sys2Proof.Machine
end

