-- ==== Sys2Proof/Machine/Reset.lean ====
section
/-! DEFINITION. The three resets (R201, and the reset values of every block), the reset line and the loss of the
always-on supply, with what they leave of a flash operation in its work (R155, R156). -/

namespace Sys2Proof.Machine

/-! ### Flash operations cut -/

/-- The flash with its engine's operation cut, by the free masks of index `n` (R142, R155, R156, R166). Marks that
are cut leave the records marked so far (R148). -/
def cutEngine (f : Flash) (op : EngineOp) (n : Nat) : Flash :=
  match op with
  | .idle | .check | .marks _ _ => f
  | .program r off bytes _ _ => { f with cells := cutRecord f.cells n (regionBase r + off) bytes }
  | .erase r _ => { f with cells := cutErase f.cells n r }
  | .flagProgram r => { f with nFlags := f.nFlags ||| (Config.cutFlags n &&& BitVec.ofNat 16 (2 ^ r.val)) }
  | .flagClear => { f with nFlags := f.nFlags &&& Config.cutFlags n }
  | .configProgram off todo _ => { f with cells := cutConfig f.cells n off (todo.headD []) }

/-- The flash with the engine's operation and a suspended erase cut; two indices of the free masks are spent. -/
def State.cutFlash (s : State) : State :=
  let engine := cutEngine s.flash s.store.engine s.free
  let cut := match s.store.suspended with
    | some e => { engine with cells := cutErase engine.cells (s.free + 1) e.region }
    | none => engine
  { s with flash := cut, free := s.free + 2 }

/-! ### Reset values -/

/-- Every block at its reset values, the path driver as named; the flash, the pins and what the straps gave stand
(R20, R43, R63, R83, R99, R120, R136, R155, R168, R187, R200). The phase is START; while RESETn is low or the supply is
lost it is so already, from the fall or the loss on. DESIGN CHOICE, log entry 86. The configuration in force, with the
zone table's configured fields and the zone states of R83, the V flags of R168 and the attention mask of R200, is the
default table until ENTER_LISTEN reads the configuration, and in STRAP_FAULT, where none is read. DESIGN CHOICE, log
entry 26. -/
def State.resetBlocks (s : State) (path : Bool) : State :=
  { s with
    sys := { s.sys with phase := .start, configRefused := none, clock := 0, listenTimer := none }
    config := Configuration.defaults
    link := {}
    roster := RosterUnit.reset s.pins.adapter
    image := none
    bay := { path := path }
    panel := Panel.reset Configuration.defaults
    supply := {}
    shock := {}
    coord := {}
    store := {}
    console := {} }

/-- The role a ROLE strap gives; strap 3 is unused (R201). In STRAP_FAULT the role has no use; DESIGN CHOICE, log
entry 44. -/
def roleOf (strap : Fin 4) : Role :=
  if strap = 1 then .lid else if strap = 2 then .bay else .base

/-- Straps that make no sense (R201). -/
def strapsFault (role : Fin 4) (addr : Station) : Bool := role == 3 || addr == 0

/-- START's first act: the straps are read (R201). In STRAP_FAULT, and in a part that is no BAY, the path driver is
not kept closed. -/
def State.readStraps (s : State) (cause : ResetCause) : State :=
  let bad := strapsFault s.pins.roleStrap s.pins.addrStrap
  let role := roleOf s.pins.roleStrap
  { s with
    sys := { s.sys with
      phase := if bad then .strapFault else .start
      role := role
      station := s.pins.addrStrap
      cause := cause }
    bay := { s.bay with path := s.bay.path && !bad && role == .bay } }

/-- A reset with its cause: a flash operation in its work is cut, every block takes its reset values, and START
begins (R201, R202). -/
def State.restart (s : State) (cause : ResetCause) (path : Bool) : State :=
  ((s.cutFlash).resetBlocks path).readStraps cause

/-- A station reset (R195, R201). -/
def State.stationReset (s : State) : State := s.restart .station s.bay.path

/-! ### Commands -/

/-- POWER_ON_RESET: the always-on supply returns (R201). -/
def execPowerOnReset (role : Fin 4) (addr : Station) (s : State) : Host.Outcome State Fault Refusal :=
  let t : State :=
    { s with
      pins := { s.pins with roleStrap := role, addrStrap := addr }
      sys := { s.sys with powered := true } }
  .next (t.restart .powerOn false)

/-- PIN_RESET: RESETn rises after being low (R201). Without the always-on supply the part stays stopped. -/
def execPinReset (s : State) : Host.Outcome State Fault Refusal :=
  let t : State := { s with pins := { s.pins with resetLow := false } }
  .next (if s.sys.powered then t.restart .pin s.bay.path else t)

/-- RESETN_FALL: the part is held in pin reset, and keeps its path driver alone (R63, R201). -/
def execResetnFall (s : State) : Host.Outcome State Fault Refusal :=
  let t : State := { s with pins := { s.pins with resetLow := true } }
  .next (if s.active then t.cutFlash.resetBlocks s.bay.path else t)

/-- ALWAYS_ON_SUPPLY_LOSS: the part stops, and opens nothing (R155). -/
def execAlwaysOnSupplyLoss (s : State) : Host.Outcome State Fault Refusal :=
  let t := s.cutFlash.resetBlocks s.bay.path
  .next { t with sys := { t.sys with powered := false } }

end Sys2Proof.Machine
end

