-- ==== Sys2Proof/Machine/Console.lean ====
section
/-! DEFINITION. The console's queries (R81, R119, R154, R167, R186, R192, R193) and commands (R57, R80, R93, R189,
R191, R194, R195), and the log stream (R196 to R199). -/

namespace Sys2Proof.Machine

/-! ### Queries -/

/-- The topic belongs to a role the station has (R193). -/
def topicRole (t : Topic) (r : Role) : Bool :=
  match t with
  | .roster => r == .base
  | .zones => r == .lid
  | _ => true

/-- The index lies in the topic's range (R193). -/
def indexOk (t : Topic) (index : Nat) : Bool :=
  match t with
  | .peers => index < 8
  | .zones => index < 6
  | _ => true

/-- The content of topic STATUS (R154, R167, R186, R193). -/
def State.statusContent (s : State) : StatusContent where
  role := s.sys.role
  station := s.sys.station
  phase := s.sys.phase
  deferred := s.link.deferred
  shock := s.shock.state
  episodeCount := s.shock.count
  startCount := s.store.startCount
  engine := s.store.engine
  remaining := s.store.remaining
  suspended := s.store.suspended.isSome
  openRegion := s.store.openRegion
  fill := (s.store.entry s.store.openRegion).fill
  oldest := s.store.oldest
  newest := s.store.newest
  dropEntries := s.store.queue.countP QueueEntry.isDrop
  ordinaryEntries := ordinaryRecords s.store.queue
  blocked := s.store.isBlocked
  slot := s.store.slot.map StoreSlot.op
  vFlags := s.store.vFlags
  nFlags := s.flash.nFlags
  lock := s.store.lock
  hold := s.pins.hold
  protectedRegions := regions.filter s.isProtected
  region0Written := s.store.region0Written
  write := s.store.configWrite.map fun w => (w.phase, w.segments.flatten.length)
  urgentNotes := urgentCount s.link.queue
  ordinaryNotes := ordinaryCount s.link.queue
  buffered := s.link.buffer.map fun b => b.note.kind
  stream := s.console.stream.map Stream.tag

/-- The roster record a REPLY carries: version 0 while DEFERRED (R193). -/
def State.rosterShown (s : State) : Roster :=
  if s.link.deferred then { s.roster.record with version := 0 } else s.roster.record

/-- The content of topic ZONES (R81). -/
def State.zoneContent (s : State) (z : ZoneId) : ZoneContent where
  zone := s.panel.zones[z]
  result := s.supply.result z
  groupA := s.panel.groupA
  groupB := s.panel.groupB
  mode := s.panel.mode
  ambient := s.panel.ambient
  mean := ambientMean s.panel.filter
  shockFader := s.shockFader
  granted := s.granted
  effective := s.effective
  demandSum := sumZones s.panel Zone.demand
  appliedSum := sumZones s.panel Zone.applied

/-- The content of topic EPISODE (R119, R135). Its check-pending field is that of the record in progress; a closed record
shows its own. DESIGN CHOICE, log entry 79. -/
def State.episodeContent (s : State) : EpisodeContent where
  state := s.shock.state
  count := s.shock.count
  calmOwed := s.shock.calmOwed
  checkPending := match s.shock.episode with
    | some e => e.checkPending
    | none => false
  episode := s.shock.episode
  closed := s.shock.closed
  fallWindow := s.shock.fallWindow
  checking := s.shock.checking
  coordinator := s.coord

/-- The content of a topic and index (R193). -/
def State.contentOf (s : State) (t : Topic) (index : Nat) : TopicContent :=
  match t with
  | .status => .status s.statusContent
  | .roster => .roster s.rosterShown s.roster.slot s.roster.waitList
  | .peers => .peer (s.peer (Fin.ofNat 8 index))
  | .zones => .zone (s.zoneContent (Fin.ofNat 6 index))
  | .episode => .episode s.episodeContent
  | .conditions =>
    .conditions s.console.conditions s.console.mask s.console.inhibited s.console.stream.isSome (s.peer 0).silent
  | .guard => .guard s.link.capture s.link.violations s.link.overflow
  | .identity => .identity (s.identityBytes index)

/-- The checks of an ASK, in order (R192). -/
def State.askRefused (s : State) (topic : Field Topic) (index part : Nat) : Option RefusalReason :=
  match topic with
  | .bad _ => some .badValue
  | .val t =>
    if !topicRole t s.sys.role then some .notRole
    else if !indexOk t index || part ≥ partsOf t s.sys.role then some .badValue
    else none

/-- ASK (R192). A read of region 15 waits while an erase of its bank is in progress or suspended (R147). The REPLY to
a topic that is none of the eight carries the topic asked and 0 as its number of parts: DESIGN CHOICE, log entry
28. -/
def State.answerAsk (s : State) (topic : Field Topic) (index part : Nat) : State :=
  let parts := match topic with
    | .val t => partsOf t s.sys.role
    | .bad _ => 0
  match s.askRefused topic index part, topic with
  | some reason, _ => s.sendTo 0 (.ask topic index part parts (.refused reason))
  | none, .val .identity =>
    if s.store.bankBusy 1 then
      { s with console := { s.console with asksWaiting := s.console.asksWaiting ++ [(index, part)] } }
    else s.replyIdentity index part
  | none, .val t =>
    s.sendTo 0 (.ask (.val t) index part parts (.done (partBytes parts (s.contentOf t index) part)))
  | none, .bad _ => s

/-- An ASK of a topic is heard (R192, R194). -/
def State.hearAsk (s : State) (topic : Topic) (sender : Station) (target : Target) (index part : Nat) : State :=
  s.receiveConsole .ask sender target fun t => t.answerAsk (.val topic) index part

/-- A WRITE-CONFIG with a step outside its values: BUSY while the slot holds an operation, else BAD_VALUE (R152,
R208). DEDUCED for the order, log entry 30. -/
def State.refuseStep (s : State) : State :=
  s.storeDone .writeConfig (.refused (if s.store.slot.isSome then .busy else .badValue))

/-- A note whose bytes pass the form test as far as the manual lays them out, with its coded field outside the
values listed: the form test refuses it, but for a console kind, whose field the part that takes it refuses (R192,
R208). The row that brings such a field, and what it is without one, are the model's. DESIGN CHOICE, log entries 28
and 34. -/
def State.hearBadField (s : State) (bad : BadField) (kind : Kind) (sender : Station) (target : Target) : State :=
  match bad, kind with
  | .none, _ => s
  | .topic code index part, .ask => s.receiveConsole .ask sender target fun t => t.answerAsk (.bad code) index part
  | .step, .writeConfig => s.receiveConsole .writeConfig sender target State.refuseStep
  | _, _ => if consoleKind kind then s else s.noise

/-- NOTE_GARBLED: a note that fails the form test sets LINK_NOISE (R171, R206 to R208). -/
def execNoteGarbled (bytes : List Byte) (bad : BadField) (s : State) : Host.Outcome State Fault Refusal :=
  .next (if formTest bytes then
    match noteHeader bytes with
    | some (kind, sender, target) => s.hearBadField bad kind sender target
    | none => s
  else s.noise)

/-- ASK_STATUS (R193). -/
def execAskStatus (sender : Station) (target : Target) (index part : Nat) (s : State) :
    Host.Outcome State Fault Refusal := .next (s.hearAsk .status sender target index part)

/-- ASK_ROSTER (R193). -/
def execAskRoster (sender : Station) (target : Target) (index part : Nat) (s : State) :
    Host.Outcome State Fault Refusal := .next (s.hearAsk .roster sender target index part)

/-- ASK_PEERS (R186, R193). -/
def execAskPeers (sender : Station) (target : Target) (index part : Nat) (s : State) :
    Host.Outcome State Fault Refusal := .next (s.hearAsk .peers sender target index part)

/-- ASK_ZONES (R81, R193). -/
def execAskZones (sender : Station) (target : Target) (index part : Nat) (s : State) :
    Host.Outcome State Fault Refusal := .next (s.hearAsk .zones sender target index part)

/-- ASK_EPISODE (R119, R135, R193). -/
def execAskEpisode (sender : Station) (target : Target) (index part : Nat) (s : State) :
    Host.Outcome State Fault Refusal := .next (s.hearAsk .episode sender target index part)

/-- ASK_CONDITIONS (R193). -/
def execAskConditions (sender : Station) (target : Target) (index part : Nat) (s : State) :
    Host.Outcome State Fault Refusal := .next (s.hearAsk .conditions sender target index part)

/-- ASK_GUARD (R186, R193). -/
def execAskGuard (sender : Station) (target : Target) (index part : Nat) (s : State) :
    Host.Outcome State Fault Refusal := .next (s.hearAsk .guard sender target index part)

/-- ASK_IDENTITY (R147, R193). -/
def execAskIdentity (sender : Station) (target : Target) (index part : Nat) (s : State) :
    Host.Outcome State Fault Refusal := .next (s.hearAsk .identity sender target index part)

/-! ### Commands -/

/-- SET-LEVEL at a station: the REPLY with DONE is queued, and the faders that changed recompute the targets (R80). -/
def State.takeLevel (s : State) (group : Field LevelGroup) (level : Nat) (mode : Field LevelMode) : State :=
  if s.sys.role ≠ .lid then s.refuse .setLevel .notRole
  else match group, mode with
    | .val g, .val m =>
      let faded := s.panel.setLevel s.config.curve g level m
      let told := s.reply .setLevel .done
      if faded = s.panel then told else told.panelEvent fun t => t.withPanel fun _ => faded
    | _, _ => s.refuse .setLevel .badValue

/-- SET_LEVEL (R80). -/
def execSetLevel (sender : Station) (target : Target) (group : Field LevelGroup) (level : Nat)
    (mode : Field LevelMode) (s : State) : Host.Outcome State Fault Refusal :=
  .next (s.receiveConsole .setLevel sender target fun t => t.takeLevel group level mode)

/-- RELEASE-BAY at a station (R57). -/
def State.takeRelease (s : State) : State :=
  if s.sys.role ≠ .bay then s.refuse .releaseBay .notRole
  else if s.mayAsk then (s.sendAsk .console).reply .releaseBay .done
  else if s.bay.ask ≠ .none ∨ s.bay.state = .releasing then s.refuse .releaseBay .busy
  else s.refuse .releaseBay .state

/-- RELEASE_BAY (R57). -/
def execReleaseBay (sender : Station) (target : Target) (s : State) : Host.Outcome State Fault Refusal :=
  .next (s.receiveConsole .releaseBay sender target State.takeRelease)

/-- TEST-STRINGS at a station (R93). -/
def State.takeTest (s : State) : State :=
  if s.sys.role ≠ .lid then s.refuse .testStrings .notRole
  else if s.shockHold then s.refuse .testStrings .held
  else if s.hold then s.refuse .testStrings .busy
  else s.startTest .console

/-- TEST_STRINGS (R93). -/
def execTestStrings (sender : Station) (target : Target) (s : State) : Host.Outcome State Fault Refusal :=
  .next (s.receiveConsole .testStrings sender target State.takeTest)

/-- The REPLY of a RESET-STATION (R195). -/
def resetReply : Note := { target := .station 0, body := .reply .resetStation .done .none }

/-- RESET-STATION at a station (R195). One that finds a reset owed is ignored in every shock state. DESIGN CHOICE, log
entry 82. -/
def State.takeReset (s : State) : State :=
  if s.console.resetOwed then s
  else if s.shockHold then s.refuse .resetStation .held
  else if s.wouldTake resetReply then
    let t := s.send resetReply
    { t with console := { t.console with resetOwed := true } }
  else (s.send resetReply).stationReset

/-- RESET_STATION (R195). -/
def execResetStation (sender : Station) (target : Target) (s : State) : Host.Outcome State Fault Refusal :=
  .next (s.receiveConsole .resetStation sender target State.takeReset)

/-- RESET_REPLY_REQUEUE (R195). -/
def execResetReplyRequeue (s : State) : Host.Outcome State Fault Refusal :=
  .next (if s.running && s.console.resetOwed && s.console.resetReplyLost && roomOrdinary s.link.queue then
    let t := s.send resetReply
    { t with console := { t.console with resetReplyLost := false } }
  else s)

/-- Conditions removed by the console; with ACCEPT_VIOLATION the capture is emptied (R185, R191). -/
def State.clearConds (s : State) (clear : Bits16) : State :=
  let t : State := { s with console := { s.console with conditions := s.console.conditions &&& ~~~clear } }
  if s.hasCond .acceptViolation && clear.has Condition.acceptViolation.bit then
    { t with link := { t.link with capture := none, violations := 0, overflow := false } }
  else t

/-- ATTENTION-RESUME at a station (R191). -/
def State.takeResume (s : State) (clear : Bits16) : State :=
  let cleared := s.clearConds clear
  let rearmed : State := { cleared with console := { cleared.console with inhibited := false } }
  (rearmed.reply .attentionResume .done (.remaining rearmed.console.conditions)).attentionTest

/-- ATTENTION_RESUME (R191). -/
def execAttentionResume (sender : Station) (target : Target) (clear : Bits16) (s : State) :
    Host.Outcome State Fault Refusal :=
  .next (s.receiveConsole .attentionResume sender target fun t => t.takeResume clear)

/-- SET_MASK (R189). -/
def execSetMask (sender : Station) (target : Target) (mask : Bits16) (s : State) :
    Host.Outcome State Fault Refusal :=
  .next (s.receiveConsole .setMask sender target fun t =>
    (({ t with console := { t.console with mask := mask } } : State).reply .setMask .done).attentionTest)

/-! ### The log stream -/

/-- The position a READ-LOG starts at (R147, R196). -/
def State.startPosition (s : State) (start : LogStart) : Option Position :=
  let reached (b : List Byte) : Bool :=
    recordGood b && match start with
      | .oldest => true
      | .sequence n => n ≤ recordSequence b
  (s.logRecords.find? fun r => reached r.2).map Prod.fst

/-- The end of a stream, as READ-LOG gives it (R196). -/
def State.limitOf (s : State) : LogEnd → StreamLimit
  | .toNewest => .toNewest (s.store.newest.getD 0)
  | .count n => .count n

/-- The stream of an accepted READ-LOG (R196). -/
def State.openStream (s : State) (tag : Nat) (start : LogStart) (endMode : LogEnd) (checkStop : Bool) : State :=
  let position := s.startPosition start
  { s with
    console := { s.console with
      serial := s.console.serial + 1
      stream := some
        { serial := s.console.serial + 1, tag := tag, next := position, last := none, limit := s.limitOf endMode,
          checkStop := checkStop, inHand := none, again := [], queued := 0, sent := 0, bad := 0,
          lastSequence := none, ending := if position.isNone then some .empty else none } } }

/-- READ-LOG at a station (R196). -/
def State.takeRead (s : State) (tag : Nat) (start : Field LogStart) (endMode : Field LogEnd)
    (checkStop : Field Bool) : State :=
  match start, endMode, checkStop with
  | .val st, .val e, .val c =>
    if e = .count 0 then s.refuse .readLog .badValue (.tag tag)
    else if s.console.stream.isSome || s.store.slot.isSome then s.refuse .readLog .busy (.tag tag)
    else if s.shockHold then s.refuse .readLog .held (.tag tag)
    else s.openStream tag st e c
  | _, _, _ => s.refuse .readLog .badValue (.tag tag)

/-- READ_LOG (R196). -/
def execReadLog (sender : Station) (target : Target) (tag : Nat) (start : Field LogStart)
    (endMode : Field LogEnd) (checkStop : Field Bool) (s : State) : Host.Outcome State Fault Refusal :=
  .next (s.receiveConsole .readLog sender target fun t => t.takeRead tag start endMode checkStop)

/-- The stream has ended of itself, COMPLETE or BAD_STOP, its STREAM-END not yet queued (R197). -/
def Stream.ended (st : Stream) : Bool := st.ending == some .complete || st.ending == some .badStop

/-- STOP-STREAM at a station (R199): refused with STATE without a stream of its tag, and at one whose final record has
its last SEG queued, though its STREAM-END is not. A stream that owes another outcome keeps it, and its STREAM-END is
the answer. DEDUCED, log entry 18. -/
def State.takeStop (s : State) (tag : Nat) : State :=
  match s.console.stream with
  | some st => if st.tag = tag ∧ st.ended = false then s.cutStream .cut else s.refuse .stopStream .state
  | none => s.refuse .stopStream .state

/-- STOP_STREAM (R199). -/
def execStopStream (sender : Station) (target : Target) (tag : Nat) (s : State) :
    Host.Outcome State Fault Refusal :=
  .next (s.receiveConsole .stopStream sender target fun t => t.takeStop tag)

/-- The bank of a position is free of erases (R147). -/
def State.readable (s : State) (p : Position) : Bool := !s.store.bankBusy (bankOf p.region)

/-- The stream reads its next record whole, once its bank is free (R197). -/
def State.readRecord (s : State) (st : Stream) : Stream :=
  if st.inHand.isSome || !st.again.isEmpty then st
  else match s.streamNext st with
    | none => st
    | some p =>
      if s.readable p then
        match s.logRecords.find? fun r => r.1 == p with
        | some r => { st with next := some p, inHand := some { bytes := r.2, index := 0 } }
        | none => st
      else st

/-- The SEG of an index of a record (R197). -/
def segOf (st : Stream) (h : InHand) : SegNote where
  stream := st.serial
  tag := st.tag
  recordFirst := h.index == 0
  recordLast := h.bytes.length ≤ 14 * (h.index + 1)
  badCheck := !recordGood h.bytes
  bytes := (h.bytes.drop (14 * h.index)).take 14

/-- The record's last SEG has been queued: the counts, and the end or the next position (R197). A COUNT that outlasts
the log has no next position, and its stream stays ACTIVE for a record yet to come. DESIGN CHOICE, log entry 62. -/
def State.recordSent (s : State) (st : Stream) (bytes : List Byte) : Stream :=
  let good := recordGood bytes
  let counted : Stream :=
    { st with
      sent := satUp 65535 st.sent
      bad := if good then st.bad else satUp 65535 st.bad
      lastSequence := if good then some (recordSequence bytes) else st.lastSequence
      inHand := none }
  let left := match st.limit with
    | .count n => .count (n - 1)
    | .toNewest e => StreamLimit.toNewest e
  if st.checkStop && !good then { counted with limit := left, ending := some .badStop }
  else if streamStopsAt st (match st.limit with | .count n => n | .toNewest _ => 0) bytes then
    { counted with limit := left, ending := some .complete }
  else
    let after := match st.next with
      | some p => ((recordsAfter p s.logRecords).head?).map Prod.fst
      | none => none
    { counted with limit := left, next := after, last := st.next }

/-- The state with the stream replaced. -/
def State.setStream (s : State) (st : Stream) : State :=
  { s with console := { s.console with stream := some st } }

/-- The next SEG is handed to the Link Interface: a displaced one first, then the record in hand's (R197). -/
def State.handSeg (s : State) (st : Stream) : State :=
  match st.again with
  | g :: rest => (s.setStream { st with again := rest, queued := st.queued + 1 }).sendTo 0 (.seg g)
  | [] =>
    match st.inHand with
    | none => s.setStream st
    | some h =>
      let queued := { st with queued := st.queued + 1 }
      let after :=
        if h.bytes.length ≤ 14 * (h.index + 1) then s.recordSent queued h.bytes
        else { queued with inHand := some { h with index := h.index + 1 } }
      (s.setStream after).sendTo 0 (.seg (segOf st h))

/-- STREAM_ADVANCE (R197). A stream that owes an outcome hands no SEG, a displaced one neither. DESIGN CHOICE, log
entry 83. -/
def execStreamAdvance (s : State) : Host.Outcome State Fault Refusal :=
  .next (if s.running then
    match s.console.stream with
    | some st =>
      if st.ending.isSome then s
      else
        let read := s.readRecord st
        if read.queued < 2 ∧ roomOrdinary s.link.queue then s.handSeg read else s.setStream read
    | none => s
  else s)

/-- The STREAM-END of a stream (R198). -/
def streamEndOf (st : Stream) (o : StreamOutcome) : StreamEndNote :=
  { tag := st.tag, outcome := o, sent := st.sent, bad := st.bad, lastSequence := st.lastSequence }

/-- STREAM_END_QUEUE (R198): a displaced STREAM-END first, then that of an ended stream. -/
def execStreamEndQueue (s : State) : Host.Outcome State Fault Refusal :=
  .next (if s.running && roomOrdinary s.link.queue then
    match s.console.endsOwed, s.console.stream with
    | e :: rest, _ =>
      ({ s with console := { s.console with endsOwed := rest } } : State).sendTo 0 (.streamEnd e)
    | [], some st =>
      match st.ending with
      | some o =>
        (({ s with console := { s.console with stream := none } } : State).sendTo 0
          (.streamEnd (streamEndOf st o))).attentionTest
      | none => s
    | [], none => s
  else s)

end Sys2Proof.Machine
end

