-- ==== Sys2Proof/Machine/Light.lean ====
section
/-! DEFINITION. The commands of the LID's sensor, timers, comparator and string test (R66, R77, R87, R88, R95). -/

namespace Sys2Proof.Machine

/-- AMBIENT_READING (R66, R68). -/
def execAmbientReading (lux : Nat) (s : State) : Host.Outcome State Fault Refusal :=
  .next (if s.plays .lid then s.readAmbient lux else s)

/-- RAMP_TIMER (R77). -/
def execRampTimer (s : State) : Host.Outcome State Fault Refusal :=
  .next (if s.plays .lid && s.panel.ramp.isSome then s.rampStep else s)

/-- OFF_TIMER: the stage goes OFF (R87). -/
def execOffTimer (s : State) : Host.Outcome State Fault Refusal :=
  .next (if s.plays .lid && s.supply.offTimer.isSome then
    s.panelEvent fun t => t.withSupply fun b => { b with stage := .off }
  else s)

/-- HEADROOM_REPORT: the comparator's report for a string changes (R88, R89). -/
def execHeadroomReport (zone : ZoneId) (low : Bool) (s : State) : Host.Outcome State Fault Refusal :=
  let t : State := { s with pins := { s.pins with headroomLow := s.pins.headroomLow.set zone low } }
  .next (if s.plays .lid then t.settlePanel s else t)

/-- STRING_TEST_END (R95). -/
def execStringTestEnd (measures : Vector Measure 6) (s : State) : Host.Outcome State Fault Refusal :=
  .next (if s.plays .lid then
    match s.supply.test with
    | some t => s.completeTest t measures
    | none => s
  else s)

end Sys2Proof.Machine
end

