-- ==== Sys2Proof/Machine/Link.lean ====
section
/-! DEFINITION. The Link Interface's commands: the alert line (R169), the start, withdrawal and sending of a note
(R172 to R174), notes that are not taken (R171), beacons (R177 to R179, R181, R182) and silence (R180). -/

namespace Sys2Proof.Machine

/-! ### Beacons formed (R177, R178) -/

/-- The BASE's role summary (R178). -/
def State.baseSummary (s : State) : BaseSummary where
  version := if s.link.deferred then 0 else s.roster.record.version
  adapter := s.roster.record.adapter
  episode := s.coord.state
  slotBusy := s.roster.slot.isSome

/-- The role summary of the station's BEACON (R178). -/
def State.roleSummary (s : State) : RoleSummary :=
  match s.sys.role with
  | .base => .base s.baseSummary
  | .lid => .lid s.lidSummary
  | .bay => .bay s.baySummary
  | .console => .console

/-- The BEACON formed now (R177). -/
def State.formBeacon (s : State) : Beacon where
  phase := if s.link.deferred then .deferred else .running
  shock := s.shock.state
  count := s.shock.count
  summary := s.roleSummary

/-- A BEACON is formed and queued, and the beacon timer restarts (R177). -/
def State.queueBeacon (s : State) : State :=
  ({ s with link := { s.link with beaconTimer := some Config.beaconMs } } : State).sendAll (.beacon s.formBeacon)

/-! ### DEFERRED (R16, R132, R182) -/

/-- Every lower-numbered BASE of the peer table is silent (R182). -/
def State.mayLead (s : State) : Bool :=
  stations.all fun k => !(k < s.sys.station && s.present k .base)

/-- The BASE enters DEFERRED: its roster, slot and wait list are emptied and its coordinator becomes CALM (R16,
R132, R182). -/
def State.enterDeferred (s : State) : State :=
  let t := s.emptyRoster
  { t with link := { t.link with deferred := true }, coord := {} }

/-- A DEFERRED BASE that may lead leaves DEFERRED and rebuilds its roster (R16, R182). -/
def State.leaveDeferred (s : State) : State :=
  if s.plays .base && s.link.deferred && s.mayLead then
    ({ s with link := { s.link with deferred := false } } : State).rebuildRoster
  else s

/-! ### Notes on LD (R172 to R174) -/

/-- The newest queued note of a kind that replaces a note of its kind that has not yet started again (R174). -/
def newerQueued (q : List Note) (n : Note) : Option Note :=
  if replacingKind n.kind then q.find? fun m => m.kind == n.kind else none

/-- The buffer with a newer BEACON or ROSTER in the place of the one it holds (R174). -/
def Link.refresh (l : Link) (n : Note) (started : Bool) : Link :=
  match newerQueued l.queue n with
  | some m =>
    { l with queue := l.queue.filter fun k => k.kind != n.kind, buffer := some { note := m, started := started } }
  | none => { l with buffer := some { note := n, started := started } }

/-- The head of the queue moves into the empty buffer (R174). -/
def Link.load (l : Link) (started : Bool) : Link :=
  match l.queue with
  | [] => { l with buffer := none }
  | n :: rest => { l with queue := rest, buffer := some { note := n, started := started } }

/-- ALERT_LINE_CHANGE (R104, R114, R169). -/
def execAlertLineChange (othersDrive : Bool) (s : State) : Host.Outcome State Fault Refusal :=
  .next (s.lineChange othersDrive)

/-- NOTE_START: the note in the buffer, or the head of the queue, starts (R172, R174). -/
def execNoteStart (s : State) : Host.Outcome State Fault Refusal :=
  .next (if s.awake then
    match s.link.buffer with
    | some b => if b.started then s else { s with link := s.link.refresh b.note true }
    | none => { s with link := s.link.load true }
  else s)

/-- NOTE_WITHDRAW: the note stays in the buffer to start again (R173, R174). -/
def execNoteWithdraw (s : State) : Host.Outcome State Fault Refusal :=
  .next (if s.awake then
    match s.link.buffer with
    | some b => if b.started then { s with link := s.link.refresh b.note false } else s
    | none => s
  else s)

/-- The stream's count of SEG notes falls when one has been sent whole (R197). -/
def Console.segSent (c : Console) (g : SegNote) : Console :=
  match c.stream with
  | some st =>
    if st.serial = g.stream then { c with stream := some { st with queued := st.queued - 1 } } else c
  | none => c

/-- What follows from a note sent whole: a stream's count (R197), an owed reset (R195). -/
def State.afterSent (s : State) (n : Note) : State :=
  match n.body with
  | .seg g => { s with console := s.console.segSent g }
  | .reply .resetStation .done _ => if s.console.resetOwed then s.stationReset else s
  | _ => s

/-- NOTE_SENT: the buffer empties, and the head of the queue moves in (R174, R195, R197). -/
def execNoteSent (s : State) : Host.Outcome State Fault Refusal :=
  .next (if s.awake then
    match s.link.buffer with
    | some b => ({ s with link := s.link.load false } : State).afterSent b.note
    | none => s
  else s)

/-- NOTE_NOT_CONSUMED: a note that parts do not consume, or that is not for this station (R171, R184). -/
def execNoteNotConsumed (kind : Kind) (sender : Station) (target : Target) (s : State) :
    Host.Outcome State Fault Refusal :=
  .next (if notConsumed kind then
    (if s.awake && sender != s.sys.station then s.hears sender else s)
  else s.receive kind sender target id)

/-! ### Beacons and silence -/

/-- BEACON_TIMER (R177, R190). -/
def execBeaconTimer (s : State) : Host.Outcome State Fault Refusal :=
  .next (if s.running && s.link.beaconTimer.isSome then s.queueBeacon.attentionTest else s)

/-- BASE_SILENT: the last BASE that was not silent has become silent (R180). -/
def State.baseSilence (s : State) (k : Station) : State :=
  if s.sys.role != .base && (s.peer k).role == some .base && s.lowestBase.isNone then s.setCond .baseSilent else s

/-- A station becomes silent, and the blocks that read its silence are told (R6, R16, R37, R58, R72, R125, R180,
R182); a close of the episode takes the roster's part with it. DEDUCED for the order, log entry 50. -/
def State.silenceBegins (s : State) (k : Station) : State :=
  let marked := s.setPeer k { s.peer k with time := max (s.peer k).time Config.silenceMs, silent := true }
  let lit := marked.leaveDeferred.relight k
  let bayed := if lit.plays .bay then lit.baySilence k else lit
  ((bayed.coordSilence k).rosterSilence k).baseSilence k

/-- PEER_SILENT (R180). -/
def execPeerSilent (peer : Station) (s : State) : Host.Outcome State Fault Refusal :=
  .next (if s.awake && !(s.peer peer).silent then s.silenceBegins peer else s)

/-- A beacon role that its station number cannot carry (R179). -/
def beaconMismatch (sender : Station) (r : Role) : Bool := (sender == 0) != (r == .console)

/-- A BEACON is written into the sender's entry (R179). -/
def State.writeBeacon (s : State) (k : Station) (b : Beacon) : State :=
  s.setPeer k
    { s.peer k with
      role := some b.summary.role, phase := some b.phase, shock := some b.shock, count := b.count
      summary := some b.summary }

/-- An admitted BEACON is delivered: DEFERRED is entered or left, and a bay's report reaches the roster (R3, R4,
R16, R30, R182). -/
def State.deliverBeacon (s : State) (k : Station) (b : Beacon) : State :=
  let led :=
    if s.plays .base && b.summary.role == .base && k < s.sys.station && !s.link.deferred then s.enterDeferred
    else s.leaveDeferred
  match b.summary with
  | .bay r => led.rosterBeacon k r b.shock
  | _ => led

/-- BEACON (R171, R179, R181, R182). The time of a capture is the ms clock as it stands: DESIGN CHOICE, log entry
61. -/
def execBeacon (sender : Station) (target : Target) (body : Beacon) (s : State) :
    Host.Outcome State Fault Refusal :=
  .next (if !s.awake then s
  else if sender == s.sys.station then s.setCond .addrClash
  else
    let t := s.heard sender
    if !t.targeted target then s.hears sender
    else if beaconMismatch sender body.summary.role then
      (s.hears sender).capture
        { reason := .roleMismatch, sender := sender, kind := .beacon, target := target,
          roleHeld := some body.summary.role, time := t.sys.clock }
    else s.attend sender ((t.writeBeacon sender body).deliverBeacon sender body))

end Sys2Proof.Machine
end

