-- ==== Sys2Proof/Machine/Notes.lean ====
section
/-! DEFINITION. The notes of the stations: FALL and IMPACT, the bay notes to the BASE, the BASE's notes to a bay,
ROSTER, CALM and SETTLED. -/

namespace Sys2Proof.Machine

/-- FALL (R104, R114). -/
def execFall (sender : Station) (target : Target) (_count _fallTime : Nat) (s : State) :
    Host.Outcome State Fault Refusal :=
  .next (s.receive .fall sender target fun t => t.takeFall sender)

/-- IMPACT (R106, R123). -/
def execImpact (sender : Station) (target : Target) (_count _impacts magnitude : Nat) (axis : Axis) (s : State) :
    Host.Outcome State Fault Refusal :=
  .next (s.receive .impact sender target fun t => t.takeImpact sender magnitude axis)

/-- LOST (R5, R38). -/
def execLost (sender : Station) (target : Target) (s : State) : Host.Outcome State Fault Refusal :=
  .next (s.receive .lost sender target fun t => t.rosterLost sender)

/-- FAULT (R5, R39). -/
def execFault (sender : Station) (target : Target) (_cause : FaultCause) (s : State) :
    Host.Outcome State Fault Refusal :=
  .next (s.receive .fault sender target fun t => t.rosterFault sender)

/-- CALM (R111, R132). Its close reason is ALL_SETTLED or TIMEOUT (R128); a note with another fails the form test
(R208). -/
def execCalm (sender : Station) (target : Target) (_episode : Nat) (reason : CloseReason) (_settled : Nat)
    (_unsettled : List Station) (s : State) : Host.Outcome State Fault Refusal :=
  .next (if reason = .interrupted then s.noise else s.receive .calm sender target State.takeCalm)

/-- A ROSTER replaces the image when the image is none, or when sender, epoch or version differ (R17). -/
def Image.differs (old : Option Image) (new : Image) : Bool :=
  match old with
  | none => true
  | some i =>
    i.sender != new.sender || i.record.epoch != new.record.epoch || i.record.version != new.record.version

/-- The image of a BAY or LID is replaced, and its blocks act on it (R17, R49, R75, R118). -/
def State.takeImage (s : State) (new : Image) : State :=
  if (s.plays .bay || s.plays .lid) && Image.differs s.image new then
    let placed : State := { s with image := some new }
    let flagged := if new.record.leaving.isSome then placed.markHandover else placed
    if s.plays .bay then flagged.bayImage s.image new else flagged.panelImage s
  else s

/-- ROSTER (R17, R184, R207). A payload that fails the form test is a garbled note (R171). -/
def execRoster (sender : Station) (target : Target) (payload : List Byte) (s : State) :
    Host.Outcome State Fault Refusal :=
  .next (match parseRoster payload with
  | none => s.noise
  | some r => s.receive .roster sender target fun t => t.takeImage { sender := sender, record := r })

/-- LET-GO (R51). -/
def execLetGo (sender : Station) (target : Target) (_kind : LetGoKind) (s : State) :
    Host.Outcome State Fault Refusal :=
  .next (s.receive .letGo sender target fun t => if t.plays .bay then t.bayLetGo sender else t)

/-- RELEASE-NO (R58, R60). -/
def execReleaseNo (sender : Station) (target : Target) (reason : ReleaseReason) (s : State) :
    Host.Outcome State Fault Refusal :=
  .next (s.receive .releaseNo sender target fun t => if t.plays .bay then t.bayReleaseNo reason else t)

/-- RELEASE-WAIT (R58). -/
def execReleaseWait (sender : Station) (target : Target) (position : Nat) (s : State) :
    Host.Outcome State Fault Refusal :=
  .next (s.receive .releaseWait sender target fun t =>
    if t.plays .bay then t.withBay fun b => { b with ask := .waiting position, answer := none } else t)

/-- TAKEN (R5, R30). -/
def execTaken (sender : Station) (target : Target) (_version : Nat) (s : State) :
    Host.Outcome State Fault Refusal :=
  .next (s.receive .taken sender target fun t => t.rosterTaken sender)

/-- DRAINED (R31). -/
def execDrained (sender : Station) (target : Target) (_current : Nat) (s : State) :
    Host.Outcome State Fault Refusal :=
  .next (s.receive .drained sender target fun t => t.rosterDrained sender)

/-- GONE (R5, R34). -/
def execGone (sender : Station) (target : Target) (s : State) : Host.Outcome State Fault Refusal :=
  .next (s.receive .gone sender target fun t => t.rosterGone sender)

/-- RELEASE-ASK (R25 to R28, R44). -/
def execReleaseAsk (sender : Station) (target : Target) (origin : Origin) (s : State) :
    Host.Outcome State Fault Refusal :=
  .next (s.receive .releaseAsk sender target fun t => t.rosterAsk sender origin)

/-- SETTLED (R124, R132). -/
def execSettled (sender : Station) (target : Target) (body : SettledNote) (s : State) :
    Host.Outcome State Fault Refusal :=
  .next (s.receive .settled sender target fun t => t.takeSettled sender body)

end Sys2Proof.Machine
end

