-- ==== Sys2Proof/Machine/Shock.lean ====
section
/-! DEFINITION. The commands of the motion sensor and of the Shock Monitor's and the coordinator's timers (R100 to
R112, R126). A sample that completes a run performs the run's event in the same step; the row of that event is the
same event taken on its own (DESIGN CHOICE, log entry 11). -/

namespace Sys2Proof.Machine

/-- MOTION_SAMPLE (R100, R106, R108, R110). -/
def execMotionSample (magnitude : Nat) (axis : Axis) (s : State) : Host.Outcome State Fault Refusal :=
  .next (if s.awake then s.takeMotion magnitude axis else s)

/-- OWN_FALL (R103, R114). -/
def execOwnFall (s : State) : Host.Outcome State Fault Refusal :=
  .next (if s.awake then s.runFalls else s)

/-- IMPACT_END: the quiet run reaches 50 in IMPACT (R107). -/
def execImpactEnd (s : State) : Host.Outcome State Fault Refusal :=
  .next (if s.awake && s.shock.state == .impact then
    (s.withShock fun k => { k with quiet := Config.quietRun }).enterSettling
  else s)

/-- FALL_WINDOW_TIMER (R105, R107). -/
def execFallWindowTimer (s : State) : Host.Outcome State Fault Refusal :=
  .next (if s.awake && s.shock.fallWindow.isSome then s.windowEnds else s)

/-- ENTER_CHECKING: the rest run reaches 500 in SETTLING (R108, R109). -/
def execEnterChecking (s : State) : Host.Outcome State Fault Refusal :=
  .next (if s.awake && s.shock.state == .settling then
    (s.withShock fun k => { k with rest := Config.restRun }).enterChecking
  else s)

/-- CHECKING_TIMER (R112). -/
def execCheckingTimer (s : State) : Host.Outcome State Fault Refusal :=
  .next (if s.awake then s.checkingEnds else s)

/-- CLOSING_TIMER (R126). -/
def execClosingTimer (s : State) : Host.Outcome State Fault Refusal := .next s.closingEnds

end Sys2Proof.Machine
end

