-- ==== Sys2Proof/Machine/Sources.lean ====
section
/-! DEFINITION. The commands of the BASE's lines and timers (R7, R14, R23) and of the BAY's lines, samples and
timers (R46 to R60). -/

namespace Sys2Proof.Machine

/-! ### BASE -/

/-- ADAPTER_CHANGE (R7). A level that is no change does nothing. -/
def execAdapterChange (present : Bool) (s : State) : Host.Outcome State Fault Refusal :=
  .next (if s.pins.adapter = present then s
  else ({ s with pins := { s.pins with adapter := present } } : State).rosterAdapter present)

/-- PUBLISH_TIMER, with the reading of the load sense line (R14). The reading stands for the line until the next
one; DESIGN CHOICE, log entry 13. -/
def execPublishTimer (load : Nat) (s : State) : Host.Outcome State Fault Refusal :=
  .next ({ s with pins := { s.pins with load := load } } : State).rosterPublish

/-- HANDOVER_TIMER (R23, R33, R36). -/
def execHandoverTimer (s : State) : Host.Outcome State Fault Refusal := .next s.rosterTimeout

/-! ### BAY: samples -/

/-- PACK_SAMPLE (R46, R48, R50, R53 to R55). -/
def execPackSample (voltage current : Nat) (temperature : Int) (s : State) : Host.Outcome State Fault Refusal :=
  .next (if s.plays .bay then
    s.takeSample { voltage := voltage, current := current, temperature := temperature }
  else s)

/-- RAIL_SAMPLE: the run of samples below 9000 mV, and the rescue close it completes (R56). The run is kept in every
bay state. DESIGN CHOICE, log entry 54. -/
def execRailSample (millivolts : Nat) (s : State) : Host.Outcome State Fault Refusal :=
  .next (if s.plays .bay then
    let run := if millivolts < Config.railLow then satUp Config.railRun s.bay.railRun else 0
    let t := s.withBay fun b => { b with railRun := run }
    if run ≥ Config.railRun ∧ s.bay.state = .ready then t.rescueClose else t
  else s)

/-- RESCUE_CLOSE: the rail has stayed below 9000 mV for 20 ms (R56). DESIGN CHOICE, log entry 11. -/
def execRescueClose (s : State) : Host.Outcome State Fault Refusal :=
  .next (if s.plays .bay && s.bay.state == .ready then
    (s.withBay fun b => { b with railRun := Config.railRun }).rescueClose
  else s)

/-- CHARGE_REPORT: read while PRESENT is high (R46). -/
def execChargeReport (charge : Nat) (s : State) : Host.Outcome State Fault Refusal :=
  let t : State := { s with pins := { s.pins with packCharge := charge } }
  .next (if s.plays .bay && s.pins.present then t.withBay fun b => { b with charge := charge } else t)

/-! ### BAY: lines -/

/-- PRESENT_RISE, with the pack's charge report (R46, R48). -/
def execPresentRise (charge : Nat) (s : State) : Host.Outcome State Fault Refusal :=
  .next (if s.pins.present then s
  else
    let t : State := { s with pins := { s.pins with present := true, packCharge := charge } }
    if s.plays .bay then
      t.withBay fun b => if b.state = .empty then { b.seat with charge := charge } else { b with charge := charge }
    else t)

/-- The bay at a fall of PRESENT (R52, R53). The PACK record carries the charge of the latest report, which is held at 0
from here on (R46, R62). DEDUCED, log entry 77. -/
def State.presentFalls (s : State) : State :=
  match s.bay.state with
  | .empty | .lost => s
  | .freed => s.goEmpty
  | .carrying | .releasing => s.goLost
  | .seated | .ready | .faulted =>
    ((s.withBay fun b => b.go .empty).handPack .pulled s.bay.state).goEmpty

/-- PRESENT_FALL (R46, R52, R53). -/
def execPresentFall (s : State) : Host.Outcome State Fault Refusal :=
  .next (if s.pins.present then
    let t : State := { s with pins := { s.pins with present := false } }
    if s.plays .bay then t.presentFalls.withBay fun b => { b with charge := 0 } else t
  else s)

/-- LEVER_RISE (R57). -/
def execLeverRise (s : State) : Host.Outcome State Fault Refusal :=
  .next (if s.pins.lever then s
  else
    let t : State := { s with pins := { s.pins with lever := true } }
    if t.plays .bay && t.mayAsk then t.sendAsk .lever else t)

/-- LEVER_FALL (R57). In LISTEN too, where the bay ignores the lever (R63), its fall clears the re-ask flag.
DESIGN CHOICE, log entry 73. -/
def execLeverFall (s : State) : Host.Outcome State Fault Refusal :=
  let t : State := { s with pins := { s.pins with lever := false } }
  .next (if s.plays .bay then t.withBay fun b => { b with reAsk := false } else t)

/-! ### BAY: timers -/

/-- PACK_CHECK_END: the check passes (R48, R61). -/
def execPackCheckEnd (s : State) : Host.Outcome State Fault Refusal :=
  .next (if s.plays .bay && s.bay.check.isSome then s.passCheck else s)

/-- RESCUE_GRACE_END (R56). -/
def execRescueGraceEnd (s : State) : Host.Outcome State Fault Refusal :=
  .next (if s.plays .bay then s.withBay fun b => { b with grace := none } else s)

/-- FREED_TIMER: with PRESENT high the bay relocks and rechecks its pack (R52); the timer is paused under the
shock hold (R60). With PRESENT low it stays run out, and the bay seats once PRESENT is high. DESIGN CHOICE, log
entry 57. -/
def execFreedTimer (s : State) : Host.Outcome State Fault Refusal :=
  .next (if s.plays .bay && s.bay.state == .freed && s.bay.freed.isSome && !s.shockHold && s.pins.present then
    s.withBay Bay.seat
  else s)

/-- LOST_TIMER (R53). -/
def execLostTimer (s : State) : Host.Outcome State Fault Refusal :=
  .next (if s.plays .bay && s.bay.state == .lost && s.bay.lostWait.isSome then
    if s.pins.present then s.withBay Bay.seat else s.goEmpty
  else s)

/-- COOLING_TIMER (R55). -/
def execCoolingTimer (s : State) : Host.Outcome State Fault Refusal :=
  .next (if s.plays .bay && s.bay.state == .faulted && s.bay.cooling.isSome then s.withBay Bay.seat else s)

/-- ANSWER_TIMER: the ask is taken as refused (R58). -/
def execAnswerTimer (s : State) : Host.Outcome State Fault Refusal :=
  .next (if s.plays .bay && s.bay.ask == .asked && s.bay.answer.isSome then s.withBay Bay.refuseAsk else s)

/-- RE_ASK_DELAY_TIMER (R60). The re-ask flag is cleared by its use; DEDUCED, log entry 27. -/
def execReAskDelayTimer (s : State) : Host.Outcome State Fault Refusal :=
  .next (if s.plays .bay && s.bay.reAskDelay.isSome then
    let t := s.withBay fun b => { b with reAskDelay := none, reAsk := false }
    if s.bay.reAsk && s.pins.lever && s.mayAsk then t.sendAsk .lever else t
  else s)

/-- REFUSED_LAMP_TIMER (R59). -/
def execRefusedLampTimer (s : State) : Host.Outcome State Fault Refusal :=
  .next (if s.plays .bay then s.withBay fun b => { b with refused := none } else s)

end Sys2Proof.Machine
end

