-- ==== Sys2Proof/Machine/Start.lean ====
section
/-! DEFINITION. The phases of a start: the end of START and the entry to LISTEN (R202, R203, with the start scan
R149 to R151), and the entry to RUNNING (R204). -/

namespace Sys2Proof.Machine

/-- The store as a scan of the flash finds it: the region table, the start count, and the region that holds the newest
sequence open (R149 to R151). -/
def Store.scanned (st : Store) (cells : List Host.Cell) : Store :=
  let walked := { st with regions := scanTable cells, startCount := scanStartCount cells }
  { walked with openRegion := walked.newestRegion }

/-- The start scan, with the open region read in full where it is BLANK, and a log at its highest sequence
(R146, R149 to R151). -/
def State.scan (s : State) : State :=
  let opened := s.withStore fun st => st.scanned s.flash.cells
  let read := opened.readBlank opened.store.openRegion
  if read.store.newest = some Config.lastSequence then
    (read.withStore fun st => { st with exhausted := true }).setCond .logFull
  else read

/-- A configuration comes into force, with the flags it gives (R156, R202, R209). -/
def State.useConfig (s : State) (c : Configuration) (refused : Option ConfigRefusal) : State :=
  { s with
    config := c
    sys := { s.sys with configRefused := refused }
    panel := Panel.reset c
    console := { s.console with mask := c.mask }
    store := { s.store with region0Written := !regionErased s.flash.cells 0, vFlags := c.vDefaults } }

/-- Steps 1 to 3 of START: the configuration in force and the flags (R156, R202, R209). -/
def State.loadConfig (s : State) : State :=
  match testConfig (regionErased s.flash.cells 0) (flashRead s.flash.cells 0 Config.configLength) with
  | .ok c => s.useConfig c none
  | .error e => (s.useConfig Configuration.defaults (some e)).setCond .configDefaulted

/-- The entry to LISTEN: the listen timer, and the roster as R20 resets it (R20, R203). -/
def State.enterListen (s : State) : State :=
  { s with
    sys := { s.sys with phase := .listen, listenTimer := some Config.listenMs }
    roster := RosterUnit.reset s.pins.adapter }

/-- ENTER_LISTEN: START ends (R202), and the entry actions of R203 follow. -/
def execEnterListen (s : State) : Host.Outcome State Fault Refusal :=
  .next (if s.active && s.sys.phase == .start then
    let tested := s.loadConfig.scan.enterListen.lineTest
    match tested.sys.role with
    | .lid => tested.startTest .start
    | .bay => tested.startBay
    | .base | .console => tested
  else s)

/-- The BASE at the entry to RUNNING: its epoch, and its first ROSTER unless it is DEFERRED (R13, R15). -/
def State.baseRunning (s : State) : State :=
  let t := s.withRecord fun r => { r with epoch := s.store.startCount % 256 }
  if t.link.deferred then t else t.firstRoster

/-- The SETTLED notes owed from LISTEN are queued (R110). -/
def State.sendSettledOwed (s : State) : State :=
  (s.shock.settledOwed.foldl State.queueSettled s).withShock fun k => { k with settledOwed := [] }

/-- The START record (R204). -/
def State.startRecord (s : State) : StartRecord where
  cause := s.sys.cause
  config := s.sys.configRefused
  role := s.sys.role
  station := s.sys.station
  deferred := s.link.deferred
  shock := s.shock.state
  nFlags := s.flash.nFlags
  bay := if s.sys.role = .bay then some s.bay.state else none

/-- RUNNING is entered (R204). -/
def State.enterRunning (s : State) : State :=
  { s with sys := { s.sys with phase := .running, listenTimer := none } }

/-- What the station's role does at the entry to RUNNING (R13, R15, R63). -/
def State.roleRunning (s : State) : State :=
  match s.sys.role with
  | .base => s.baseRunning
  | .bay => s.bayRunning
  | .lid | .console => s

/-- ENTER_RUNNING (R204). DEDUCED for the order of the blocks, log entry 38. -/
def execEnterRunning (s : State) : Host.Outcome State Fault Refusal :=
  .next (if s.listening then
    let tested := s.enterRunning.queueBeacon.roleRunning.sendSettledOwed.attentionTest
    let told :=
      if tested.sys.role != .base && tested.lowestBase.isNone then tested.setCond .baseSilent else tested
    told.hand (.start told.startRecord)
  else s)

end Sys2Proof.Machine
end

