-- ==== Sys2Proof/Machine/StoreOps.lean ====
section
/-! DEFINITION. The console's store operations (R148, R152, R153, R159 to R166), the ends of the flash engine's
operations (R142, R144, R148, R160, R161, R166, R153), the write timer (R165) and HOLD (R157). -/

namespace Sys2Proof.Machine

/-! ### Taking an operation (R152) -/

/-- Work for the engine has arrived: an idle engine takes it (R139). -/
def State.opArrived (s : State) : State := if s.store.engineIdle then s.engineNext else s

/-- An operation arrives: refused while the slot is BUSY, or by its checks, or taken into the slot (R152). -/
def State.takeOp (s : State) (op : StoreOp) : State :=
  if s.store.slot.isSome then s.storeDone (storeOpKind op) (.refused .busy)
  else match s.opRefused op with
    | some reason => s.storeDone (storeOpKind op) (.refused reason)
    | none => (s.withStore fun st => { st with slot := some { op := op, waiting := true } }).opArrived

/-- COLLECT (R148). One of sequence 0 is taken, and marks no record. DESIGN CHOICE, log entry 80. -/
def execCollect (sender : Station) (target : Target) (sequence : Nat) (s : State) :
    Host.Outcome State Fault Refusal :=
  .next (s.receiveConsole .collect sender target fun t => t.takeOp (.collect sequence))

/-- ERASE-REGION (R163). -/
def execEraseRegion (sender : Station) (target : Target) (region : Nat) (s : State) :
    Host.Outcome State Fault Refusal :=
  .next (s.receiveConsole .eraseRegion sender target fun t => t.takeOp (.eraseRegion region))

/-- PROTECT-V (R159). A setting outside on and off is refused after the checks of R159; DEDUCED, log entry 30. -/
def execProtectV (sender : Station) (target : Target) (region : Nat) (setting : Field Bool) (s : State) :
    Host.Outcome State Fault Refusal :=
  .next (s.receiveConsole .protectV sender target fun t =>
    match setting with
    | .val on => t.takeOp (.protectV region on)
    | .bad _ =>
      if t.store.slot.isSome then t.storeDone .protectV (.refused .busy)
      else if (regionOf region).isNone then t.storeDone .protectV (.refused .badRegion)
      else t.storeDone .protectV (.refused .badValue))

/-- PROTECT-NV (R160). -/
def execProtectNv (sender : Station) (target : Target) (region : Nat) (s : State) :
    Host.Outcome State Fault Refusal :=
  .next (s.receiveConsole .protectNv sender target fun t => t.takeOp (.protectNv region))

/-- CLEAR-NV-ALL (R161). -/
def execClearNvAll (sender : Station) (target : Target) (s : State) : Host.Outcome State Fault Refusal :=
  .next (s.receiveConsole .clearNvAll sender target fun t => t.takeOp .clearNvAll)

/-- LOCK-NV (R162). -/
def execLockNv (sender : Station) (target : Target) (s : State) : Host.Outcome State Fault Refusal :=
  .next (s.receiveConsole .lockNv sender target fun t => t.takeOp .lockNv)

/-- CHECK-STORE (R153). -/
def execCheckStore (sender : Station) (target : Target) (s : State) : Host.Outcome State Fault Refusal :=
  .next (s.receiveConsole .checkStore sender target fun t => t.takeOp .checkStore)

/-! ### Writing the configuration (R165, R166) -/

/-- The configuration write ends with a refusal, and its buffer is discarded (R165, R166). -/
def State.endWrite (s : State) (reason : RefusalReason) : State :=
  (s.finishOp .writeConfig (.refused reason)).withStore fun st =>
    { st with configWrite := none, writeTimer := none }

/-- A write in RECEIVING (R165). -/
def Store.receiving (st : Store) : Option ConfigWrite :=
  match st.configWrite with
  | some w => if w.phase = .receiving then some w else none
  | none => none

/-- The bytes of the buffer (R165). -/
def ConfigWrite.bytes (w : ConfigWrite) : List Byte := w.segments.flatten

/-- WRITE-CONFIG with step START (R165). -/
def State.startWrite (s : State) (length : Nat) : State :=
  if s.store.slot.isSome then s.storeDone .writeConfig (.refused .busy)
  else match s.opRefused .writeConfig with
    | some reason => s.storeDone .writeConfig (.refused reason)
    | none =>
      if length ≠ Config.configLength then s.storeDone .writeConfig (.refused .badValue)
      else
        s.withStore fun st =>
          { st with
            slot := some { op := .writeConfig, waiting := false }
            configWrite := some { phase := .receiving, expected := length, segments := [] }
            writeTimer := some Config.writeMs }

/-- WRITE-CONFIG with step SEGMENT (R165). -/
def State.segmentWrite (s : State) (offset : Nat) (bytes : List Byte) : State :=
  match s.store.receiving with
  | none => s
  | some w =>
    if offset = w.bytes.length ∧ offset + bytes.length ≤ w.expected ∧ 1 ≤ bytes.length ∧ bytes.length ≤ 13 then
      s.withStore fun st =>
        { st with configWrite := some { w with segments := w.segments ++ [bytes] }
                  writeTimer := some Config.writeMs }
    else s.endWrite .badValue

/-- WRITE-CONFIG with step FINISH (R166). -/
def State.finishWrite (s : State) : State :=
  match s.store.receiving with
  | none => s
  | some w =>
    if w.bytes.length < w.expected || !endsWithCheck w.bytes then s.endWrite .badValue
    else
      (s.withStore fun st =>
        { st with
          slot := some { op := .writeConfig, waiting := true }
          configWrite := some { w with phase := .waiting }
          writeTimer := none }).opArrived

/-- WRITE_CONFIG_START (R165). -/
def execWriteConfigStart (sender : Station) (target : Target) (length : Nat) (s : State) :
    Host.Outcome State Fault Refusal :=
  .next (s.receiveConsole .writeConfig sender target fun t => t.startWrite length)

/-- WRITE_CONFIG_SEGMENT (R165). -/
def execWriteConfigSegment (sender : Station) (target : Target) (offset : Nat) (bytes : List Byte) (s : State) :
    Host.Outcome State Fault Refusal :=
  .next (s.receiveConsole .writeConfig sender target fun t => t.segmentWrite offset bytes)

/-- WRITE_CONFIG_FINISH (R166). -/
def execWriteConfigFinish (sender : Station) (target : Target) (s : State) : Host.Outcome State Fault Refusal :=
  .next (s.receiveConsole .writeConfig sender target State.finishWrite)

/-- WRITE_TIMER (R165). -/
def execWriteTimer (s : State) : Host.Outcome State Fault Refusal :=
  .next (if s.running && s.store.writeTimer.isSome && s.store.receiving.isSome then s.endWrite .timeout else s)

/-! ### The ends of engine operations -/

/-- The table entry after a record's program (R142). -/
def RegionEntry.grown (e : RegionEntry) (off length sequence : Nat) (drop : Bool) : RegionEntry :=
  { e with
    state := .written
    fill := off + length
    first := match e.first with
      | some f => some f
      | none => some sequence
    last := some sequence
    good := e.good + 1
    uncollected := e.uncollected + drop.toNat }

/-- A log whose newest sequence is the highest is blocked (R146). Where a ring advance had blocked it before, no new blocked
period starts, and LOG_FULL is not set again. DESIGN CHOICE, log entry 81. -/
def State.exhaust (s : State) (sequence : Nat) : State :=
  if sequence = Config.lastSequence then
    let t := s.withStore fun st => { st with exhausted := true }
    if s.store.isBlocked then t else t.setCond .logFull
  else s

/-- RECORD_PROGRAM_DONE (R142). -/
def execRecordProgramDone (s : State) : Host.Outcome State Fault Refusal :=
  .next (if s.awake then
    match s.store.engine with
    | .program r off bytes sequence drop =>
      let t := (s.setCells (flashProgramAll s.flash.cells (regionBase r + off) bytes)).withStore fun st =>
        st.setEntry r ((st.entry r).grown off bytes.length sequence drop)
      (t.exhaust sequence).engineFree
    | _ => s
  else s)

/-- The log holds no good record (R146). -/
def Store.noGood (st : Store) : Bool := st.newest.isNone

/-- The region table and the open region at the end of an erase (R143, R144, R146). -/
def Store.erased (st : Store) (r : Region) (cause : EraseCause) : Store :=
  let blank := if inRing r then st.setEntry r {} else { st with region0Written := st.region0Written && r != 0 }
  let opened := if cause = .ring then { blank with openRegion := r } else blank
  if opened.exhausted && inRing r && opened.noGood then
    { opened with openRegion := r, exhausted := false, blocked := false }
  else opened

/-- REGION_ERASE_DONE (R143, R144, R146, R164). The engine takes its next work before the reads that wait are made, so
a read waits on where that work erases its bank. DESIGN CHOICE, log entry 39. -/
def execRegionEraseDone (s : State) : Host.Outcome State Fault Refusal :=
  .next (if s.awake then
    match s.store.engine with
    | .erase r cause =>
      let t := (s.setCells (flashErase s.flash.cells r)).withStore fun st =>
        { st.erased r cause with engine := .idle, remaining := 0 }
      let told := if cause = .console then (t.finishOp (.eraseRegion r.val) .done (.region r.val)).ringRetry else t
      told.engineNext.serveAsks
    | _ => s
  else s)

/-- The collected mark programmed into a record, and its region's count (R148). -/
def State.mark (s : State) (a : Nat) : State :=
  let r : Region := Fin.ofNat 16 (a / Config.regionSize)
  (s.setCells (flashProgram s.flash.cells a 127#8)).withStore fun st =>
    st.setEntry r { st.entry r with uncollected := (st.entry r).uncollected - 1 }

/-- COLLECT_MARK_DONE (R148). -/
def execCollectMarkDone (s : State) : Host.Outcome State Fault Refusal :=
  .next (if s.awake then
    match s.store.engine with
    | .marks (a :: todo) marked =>
      let t := s.mark a
      if todo.isEmpty then
        ((t.finishOp (.collect 0) .done (.count (marked + 1))).ringRetry).engineFree
      else t.withStore fun st => { st with engine := .marks todo (marked + 1), remaining := todo.length }
    | _ => s
  else s)

/-- FLAG_PROGRAM_DONE (R160). -/
def execFlagProgramDone (s : State) : Host.Outcome State Fault Refusal :=
  .next (if s.awake then
    match s.store.engine with
    | .flagProgram r =>
      let t : State := { s with flash := { s.flash with nFlags := s.flash.nFlags.insert r.val } }
      ((t.finishOp (.protectNv r.val) .done (.region r.val)).retryIfProtectionChanged s).engineFree
    | _ => s
  else s)

/-- FLAG_CLEAR_DONE (R161). -/
def execFlagClearDone (s : State) : Host.Outcome State Fault Refusal :=
  .next (if s.awake then
    match s.store.engine with
    | .flagClear =>
      let t : State := { s with flash := { s.flash with nFlags := 0 } }
      ((t.finishOp .clearNvAll .done (.count (flagCount s.flash.nFlags))).retryIfProtectionChanged s).engineFree
    | _ => s
  else s)

/-- CONFIG_PROGRAM_DONE (R166). -/
def execConfigProgramDone (s : State) : Host.Outcome State Fault Refusal :=
  .next (if s.awake then
    match s.store.engine with
    | .configProgram off (seg :: todo) programmed =>
      let t := s.setCells (flashProgramAll s.flash.cells off seg)
      if todo.isEmpty then
        ((t.finishOp .writeConfig .done (.segments (programmed + 1))).withStore fun st =>
          { st with configWrite := none, writeTimer := none }).engineFree
      else
        t.withStore fun st =>
          { st with engine := .configProgram (off + seg.length) todo (programmed + 1), remaining := todo.length }
    | _ => s
  else s)

/-- The good and bad records CHECK-STORE finds in a region of the log (R153). -/
def recount (cells : List Host.Cell) (r : Region) (e : RegionEntry) : RegionEntry :=
  if inRing r && e.state == .written then
    { e with good := (scanRegion cells r).good, bad := (scanRegion cells r).bad }
  else e

/-- The state of the configuration record, by its check (R153). DEDUCED, log entry 31. -/
def State.configState (s : State) : ConfigState :=
  if !s.store.region0Written then .blank
  else if configWhole s.flash.cells then .good else .bad

/-- A sum over the ring regions of the table. -/
def Store.total (st : Store) (f : RegionEntry → Nat) : Nat := (ringRegions.map fun r => f (st.entry r)).sum

/-- STORE_CHECK_DONE (R153). -/
def execStoreCheckDone (s : State) : Host.Outcome State Fault Refusal :=
  .next (if s.awake then
    match s.store.engine with
    | .check =>
      let t := s.withStore fun st =>
        { st with regions := Vector.ofFn fun r => recount s.flash.cells r st.regions[r] }
      (t.finishOp .checkStore .done
        (.check (t.store.total RegionEntry.good) (t.store.total RegionEntry.bad) t.configState)).engineFree
    | _ => s
  else s)

/-! ### HOLD (R157, R164, R166) -/

/-- A console erase of region 0 or 15 is abandoned: what stands in the region is neither whole nor blank, and region
0's check is bad (R164). -/
def State.abandonErase (s : State) (r : Region) : State :=
  let t : State :=
    { s with flash := { s.flash with cells := cutErase s.flash.cells s.free r }, free := s.free + 1 }
  (t.finishOp (.eraseRegion r.val) (.refused .guarded)).withStore fun st =>
    { st with region0Written := st.region0Written || r == 0 }

/-- A configuration write that holds the slot is abandoned (R166). -/
def State.abandonWrite (s : State) : State :=
  match s.store.engine with
  | .configProgram off todo _ =>
    let t : State :=
      { s with
        flash := { s.flash with cells := cutConfig s.flash.cells s.free off (todo.headD []) }
        free := s.free + 1 }
    (t.endWrite .guarded).engineFree
  | _ => (s.endWrite .guarded).opArrived

/-- A console erase of a region that HOLD can hold. -/
def heldErase (r : Region) (cause : EraseCause) : Bool := cause == .console && !inRing r

/-- What a fall of HOLD abandons (R157). -/
def State.holdFalls (s : State) : State :=
  if s.store.configWrite.isSome then s.abandonWrite
  else match s.store.engine, s.store.suspended with
    | .erase r cause, _ => if heldErase r cause then (s.abandonErase r).engineFree.serveAsks else s
    | _, some e =>
      if heldErase e.region e.cause then
        ((s.withStore fun st => { st with suspended := none }).abandonErase e.region).serveAsks
      else s
    | _, none => s

/-- HOLD_CHANGE (R157). -/
def execHoldChange (high : Bool) (s : State) : Host.Outcome State Fault Refusal :=
  let t : State := { s with pins := { s.pins with hold := high } }
  .next (if s.pins.hold && !high && s.awake then t.holdFalls else t)

end Sys2Proof.Machine
end

