-- ==== Sys2Proof/Machine/Dispatch.lean ====
section
/-! DEFINITION. The commands and their meanings, one arm each. -/

namespace Sys2Proof.Machine

/-- The effect of a command on everything but the queue. -/
def exec (i : Instr) (s : State) : Host.Outcome State Fault Refusal :=
  match i with
  | .powerOnReset role addr => Sys2Proof.Machine.execPowerOnReset role addr s
  | .pinReset => Sys2Proof.Machine.execPinReset s
  | .enterListen => Sys2Proof.Machine.execEnterListen s
  | .enterRunning => Sys2Proof.Machine.execEnterRunning s
  | .alertLineChange othersDrive => Sys2Proof.Machine.execAlertLineChange othersDrive s
  | .noteStart => Sys2Proof.Machine.execNoteStart s
  | .noteWithdraw => Sys2Proof.Machine.execNoteWithdraw s
  | .noteSent => Sys2Proof.Machine.execNoteSent s
  | .noteGarbled bytes bad => Sys2Proof.Machine.execNoteGarbled bytes bad s
  | .noteNotConsumed kind sender target => Sys2Proof.Machine.execNoteNotConsumed kind sender target s
  | .beaconTimer => Sys2Proof.Machine.execBeaconTimer s
  | .peerSilent peer => Sys2Proof.Machine.execPeerSilent peer s
  | .beacon sender target body => Sys2Proof.Machine.execBeacon sender target body s
  | .fall sender target count fallTime => Sys2Proof.Machine.execFall sender target count fallTime s
  | .impact sender target count impacts magnitude axis => Sys2Proof.Machine.execImpact sender target count impacts magnitude axis s
  | .lost sender target => Sys2Proof.Machine.execLost sender target s
  | .fault sender target cause => Sys2Proof.Machine.execFault sender target cause s
  | .calm sender target episode reason settled unsettled => Sys2Proof.Machine.execCalm sender target episode reason settled unsettled s
  | .roster sender target payload => Sys2Proof.Machine.execRoster sender target payload s
  | .letGo sender target kind => Sys2Proof.Machine.execLetGo sender target kind s
  | .releaseNo sender target reason => Sys2Proof.Machine.execReleaseNo sender target reason s
  | .releaseWait sender target position => Sys2Proof.Machine.execReleaseWait sender target position s
  | .taken sender target version => Sys2Proof.Machine.execTaken sender target version s
  | .drained sender target current => Sys2Proof.Machine.execDrained sender target current s
  | .gone sender target => Sys2Proof.Machine.execGone sender target s
  | .releaseAsk sender target origin => Sys2Proof.Machine.execReleaseAsk sender target origin s
  | .settled sender target body => Sys2Proof.Machine.execSettled sender target body s
  | .askStatus sender target index part => Sys2Proof.Machine.execAskStatus sender target index part s
  | .askRoster sender target index part => Sys2Proof.Machine.execAskRoster sender target index part s
  | .askPeers sender target index part => Sys2Proof.Machine.execAskPeers sender target index part s
  | .askZones sender target index part => Sys2Proof.Machine.execAskZones sender target index part s
  | .askEpisode sender target index part => Sys2Proof.Machine.execAskEpisode sender target index part s
  | .askConditions sender target index part => Sys2Proof.Machine.execAskConditions sender target index part s
  | .askGuard sender target index part => Sys2Proof.Machine.execAskGuard sender target index part s
  | .askIdentity sender target index part => Sys2Proof.Machine.execAskIdentity sender target index part s
  | .setLevel sender target group level mode => Sys2Proof.Machine.execSetLevel sender target group level mode s
  | .releaseBay sender target => Sys2Proof.Machine.execReleaseBay sender target s
  | .testStrings sender target => Sys2Proof.Machine.execTestStrings sender target s
  | .resetStation sender target => Sys2Proof.Machine.execResetStation sender target s
  | .attentionResume sender target clear => Sys2Proof.Machine.execAttentionResume sender target clear s
  | .setMask sender target mask => Sys2Proof.Machine.execSetMask sender target mask s
  | .readLog sender target tag start endMode checkStop => Sys2Proof.Machine.execReadLog sender target tag start endMode checkStop s
  | .stopStream sender target tag => Sys2Proof.Machine.execStopStream sender target tag s
  | .collect sender target sequence => Sys2Proof.Machine.execCollect sender target sequence s
  | .eraseRegion sender target region => Sys2Proof.Machine.execEraseRegion sender target region s
  | .protectV sender target region setting => Sys2Proof.Machine.execProtectV sender target region setting s
  | .protectNv sender target region => Sys2Proof.Machine.execProtectNv sender target region s
  | .clearNvAll sender target => Sys2Proof.Machine.execClearNvAll sender target s
  | .lockNv sender target => Sys2Proof.Machine.execLockNv sender target s
  | .writeConfigStart sender target length => Sys2Proof.Machine.execWriteConfigStart sender target length s
  | .writeConfigSegment sender target offset bytes => Sys2Proof.Machine.execWriteConfigSegment sender target offset bytes s
  | .writeConfigFinish sender target => Sys2Proof.Machine.execWriteConfigFinish sender target s
  | .checkStore sender target => Sys2Proof.Machine.execCheckStore sender target s
  | .adapterChange present => Sys2Proof.Machine.execAdapterChange present s
  | .publishTimer load => Sys2Proof.Machine.execPublishTimer load s
  | .handoverTimer => Sys2Proof.Machine.execHandoverTimer s
  | .packSample voltage current temperature => Sys2Proof.Machine.execPackSample voltage current temperature s
  | .railSample millivolts => Sys2Proof.Machine.execRailSample millivolts s
  | .chargeReport charge => Sys2Proof.Machine.execChargeReport charge s
  | .presentRise charge => Sys2Proof.Machine.execPresentRise charge s
  | .presentFall => Sys2Proof.Machine.execPresentFall s
  | .leverRise => Sys2Proof.Machine.execLeverRise s
  | .leverFall => Sys2Proof.Machine.execLeverFall s
  | .packCheckEnd => Sys2Proof.Machine.execPackCheckEnd s
  | .rescueClose => Sys2Proof.Machine.execRescueClose s
  | .rescueGraceEnd => Sys2Proof.Machine.execRescueGraceEnd s
  | .freedTimer => Sys2Proof.Machine.execFreedTimer s
  | .lostTimer => Sys2Proof.Machine.execLostTimer s
  | .coolingTimer => Sys2Proof.Machine.execCoolingTimer s
  | .answerTimer => Sys2Proof.Machine.execAnswerTimer s
  | .reAskDelayTimer => Sys2Proof.Machine.execReAskDelayTimer s
  | .refusedLampTimer => Sys2Proof.Machine.execRefusedLampTimer s
  | .ambientReading lux => Sys2Proof.Machine.execAmbientReading lux s
  | .rampTimer => Sys2Proof.Machine.execRampTimer s
  | .offTimer => Sys2Proof.Machine.execOffTimer s
  | .headroomReport zone low => Sys2Proof.Machine.execHeadroomReport zone low s
  | .stringTestEnd measures => Sys2Proof.Machine.execStringTestEnd measures s
  | .motionSample magnitude axis => Sys2Proof.Machine.execMotionSample magnitude axis s
  | .ownFall => Sys2Proof.Machine.execOwnFall s
  | .impactEnd => Sys2Proof.Machine.execImpactEnd s
  | .fallWindowTimer => Sys2Proof.Machine.execFallWindowTimer s
  | .enterChecking => Sys2Proof.Machine.execEnterChecking s
  | .checkingTimer => Sys2Proof.Machine.execCheckingTimer s
  | .closingTimer => Sys2Proof.Machine.execClosingTimer s
  | .recordProgramDone => Sys2Proof.Machine.execRecordProgramDone s
  | .regionEraseDone => Sys2Proof.Machine.execRegionEraseDone s
  | .collectMarkDone => Sys2Proof.Machine.execCollectMarkDone s
  | .flagProgramDone => Sys2Proof.Machine.execFlagProgramDone s
  | .flagClearDone => Sys2Proof.Machine.execFlagClearDone s
  | .configProgramDone => Sys2Proof.Machine.execConfigProgramDone s
  | .storeCheckDone => Sys2Proof.Machine.execStoreCheckDone s
  | .writeTimer => Sys2Proof.Machine.execWriteTimer s
  | .holdChange high => Sys2Proof.Machine.execHoldChange high s
  | .streamAdvance => Sys2Proof.Machine.execStreamAdvance s
  | .streamEndQueue => Sys2Proof.Machine.execStreamEndQueue s
  | .resetReplyRequeue => Sys2Proof.Machine.execResetReplyRequeue s
  | .resetnFall => Sys2Proof.Machine.execResetnFall s
  | .alwaysOnSupplyLoss => Sys2Proof.Machine.execAlwaysOnSupplyLoss s

end Sys2Proof.Machine
end

