-- ==== Sys2Proof/Machine/Tick.lean ====
section
/-! DEFINITION. A tick of 1 ms, which is what the part does when no command waits (DESIGN CHOICE, log entry 9): the
clock, the peer times and the timers move on by one, and the commands of what has come due join the queue in a
fixed order. -/

namespace Sys2Proof.Machine

/-- A timer one ms later. -/
def ticked : Option Nat → Option Nat
  | some n => some (n - 1)
  | none => none

/-- A timer has run out. -/
def ranOut (t : Option Nat) : Bool := t == some 0

/-- A peer entry one ms later; the time of an entry never seen stays 0 (R179). DEDUCED, log entry 40. -/
def Peer.ticked (p : Peer) : Peer := if p.seen then { p with time := satUp 65535 p.time } else p

/-- The Bay Controller one ms later; the FREED timer is paused under the shock hold (R60). -/
def Bay.ticked (b : Bay) (hold : Bool) : Bay :=
  { b with
    check := Machine.ticked b.check
    freed := if hold then b.freed else Machine.ticked b.freed
    lostWait := Machine.ticked b.lostWait
    cooling := Machine.ticked b.cooling
    grace := Machine.ticked b.grace
    answer := Machine.ticked b.answer
    reAskDelay := Machine.ticked b.reAskDelay
    refused := Machine.ticked b.refused }

/-- Every time of the part one ms later. -/
def State.elapse (s : State) : State :=
  { s with
    sys := { s.sys with clock := s.sys.clock + 1, listenTimer := ticked s.sys.listenTimer }
    link := { s.link with
      beaconTimer := ticked s.link.beaconTimer
      peers := s.link.peers.map Peer.ticked }
    roster := { s.roster with
      handoverTimer := ticked s.roster.handoverTimer
      publishTimer := ticked s.roster.publishTimer }
    bay := s.bay.ticked s.shockHold
    panel := { s.panel with ramp := ticked s.panel.ramp }
    supply := { s.supply with
      offTimer := ticked s.supply.offTimer
      test := s.supply.test.map fun t => { t with timer := t.timer - 1 } }
    shock := { s.shock with
      fallWindow := ticked s.shock.fallWindow
      checking := ticked s.shock.checking }
    coord := { s.coord with closing := ticked s.coord.closing }
    store := { s.store with
      remaining := s.store.remaining - 1
      writeTimer := ticked s.store.writeTimer } }

/-- The command of an engine operation's end, or of one of its 1 ms programs (R138). -/
def engineDue (st : Store) : List Instr :=
  match st.engine with
  | .idle => []
  | .marks _ _ => [.collectMarkDone]
  | .configProgram _ _ _ => [.configProgramDone]
  | .program .. => if st.remaining = 0 then [.recordProgramDone] else []
  | .erase _ _ => if st.remaining = 0 then [.regionEraseDone] else []
  | .flagProgram _ => if st.remaining = 0 then [.flagProgramDone] else []
  | .flagClear => if st.remaining = 0 then [.flagClearDone] else []
  | .check => if st.remaining = 0 then [.storeCheckDone] else []

/-- The stream's work that there is room for (R195, R197, R198). A stream without a record in hand reads the next one when
there is room for its SEG. DESIGN CHOICE, log entry 84. -/
def State.streamDue (s : State) : List Instr :=
  let room := roomOrdinary s.link.queue
  let stream := match s.console.stream with
    | some st =>
      if st.ending.isSome then (if room then [Instr.streamEndQueue] else [])
      else if st.queued < 2 && room then [.streamAdvance] else []
    | none => []
  (if room && s.console.resetReplyLost then [.resetReplyRequeue] else [])
  ++ (if room && !s.console.endsOwed.isEmpty then [.streamEndQueue] else []) ++ stream

/-- A command that is due. -/
def dueIf (t : Option Nat) (c : Instr) : List Instr := if ranOut t then [c] else []

/-- The peers whose time has reached the silence time (R180). -/
def State.silenceDue (s : State) : List Instr :=
  (stations.filter fun k => !(s.peer k).silent && (s.peer k).time ≥ Config.silenceMs).map Instr.peerSilent

/-- The commands of what has come due, in their fixed order. The end of a string test is not among them: it
carries what the drivers measured. -/
def State.due (s : State) : List Instr :=
  s.silenceDue
  ++ dueIf s.sys.listenTimer .enterRunning
  ++ dueIf s.link.beaconTimer .beaconTimer
  ++ dueIf s.roster.publishTimer (.publishTimer s.pins.load)
  ++ dueIf s.roster.handoverTimer .handoverTimer
  ++ dueIf s.bay.check .packCheckEnd ++ dueIf s.bay.grace .rescueGraceEnd ++ dueIf s.bay.freed .freedTimer
  ++ dueIf s.bay.lostWait .lostTimer ++ dueIf s.bay.cooling .coolingTimer ++ dueIf s.bay.answer .answerTimer
  ++ dueIf s.bay.reAskDelay .reAskDelayTimer ++ dueIf s.bay.refused .refusedLampTimer
  ++ dueIf s.panel.ramp .rampTimer ++ dueIf s.supply.offTimer .offTimer
  ++ dueIf s.shock.fallWindow .fallWindowTimer ++ dueIf s.shock.checking .checkingTimer
  ++ dueIf s.coord.closing .closingTimer
  ++ engineDue s.store ++ dueIf s.store.writeTimer .writeTimer
  ++ s.streamDue

/-- A tick; a part that is stopped, by its reset line or without supply, stands still. -/
def State.tick (s : State) : State :=
  if s.active then { s.elapse with pending := s.elapse.due } else s

end Sys2Proof.Machine
end

