-- ==== Sys2Proof/Safety.lean ====
section
/-! DEFINITION. The vocabulary of the claims: what every reachable state keeps, block by block; the conditions under
which a note is delivered; what a command may leave changed; the attention test; what a reset and a start leave, and
what the start scan finds; the log in its order and the stream that reads it; how the bay acts on an image; and how an
episode starts, judges its handover and ends at a station. -/

namespace Sys2Proof.Machine

/-! ### The outgoing note queue (R174, R175) -/

/-- The outgoing queue holds at most 6 entries, at most 5 ordinary, the urgent ones ahead (R174), and at most one
BEACON and one ROSTER (R175). -/
structure NoteLaw (q : List Note) : Prop where
  room : q.length ≤ 6
  ordinary : ordinaryCount q ≤ 5
  ahead : q = q.filter Note.urgent ++ q.filter fun n => !n.urgent
  beacons : (q.countP fun n => n.kind == .beacon) ≤ 1
  rosters : (q.countP fun n => n.kind == .roster) ≤ 1

/-! ### The Record Store (R137, R140, R141) -/

/-- The write queue holds at most 8 entries, at most 6 ordinary, the DROP entries ahead (R141), and each record's
body is at most 26 bytes (R140). -/
structure RecordLaw (q : List QueueEntry) : Prop where
  room : q.length ≤ 8
  ordinary : ordinaryRecords q ≤ 6
  ahead : q = q.filter QueueEntry.isDrop ++ q.filter fun e => !e.isDrop
  bodies : ∀ e ∈ q, e.body.length ≤ 26

/-- What the engine works on lies inside its region, and inside the flash (R137, R140, R148, R165). -/
def EngineLaw : EngineOp → Prop
  | .program _ off bytes _ _ => off + bytes.length ≤ 4096
  | .marks todo _ => ∀ a ∈ todo, a < 65536
  | .configProgram off todo _ => off + todo.flatten.length ≤ 4096
  | .idle | .erase _ _ | .flagProgram _ | .flagClear | .check => True

/-- A configuration write's buffer is no longer than what it expects, which fits region 0 (R165). -/
def WriteLaw : Option ConfigWrite → Prop
  | none => True
  | some w => w.segments.flatten.length ≤ w.expected ∧ w.expected ≤ 4096

/-- The Record Store's queue, engine and configuration write keep their bounds. -/
structure StoreLaw (st : Store) : Prop where
  queue : RecordLaw st.queue
  engine : EngineLaw st.engine
  write : WriteLaw st.configWrite

/-- The store law, and the flash in its canonical form (R137). -/
def State.storeLaw (s : State) : Prop := StoreLaw s.store ∧ s.flash.wf = true

/-! ### The Roster Unit (R1, R21 to R23) -/

/-- The handover timer runs exactly while the slot is BUSY and not SUSPENDED (R23, R40). -/
def RosterUnit.timed (u : RosterUnit) : Bool :=
  match u.slot with
  | some sl => sl.phase != .suspended
  | none => false

/-- At most 3 entries in ascending station order (R1), a wait list of at most 2 (R22), the leaving station of the
record the slot's (R1, R21), and the handover timer running as the slot says (R23). -/
structure RosterLaw (u : RosterUnit) : Prop where
  entries : u.record.entries.length ≤ 3
  ascending : u.record.entries.Pairwise fun a b => a.station < b.station
  waiting : u.waitList.length ≤ 2
  leaving : u.record.leaving = u.slot.map Slot.leaving
  timer : u.handoverTimer.isSome = u.timed

/-! ### The station's own blocks -/

/-- The path is closed exactly in CARRYING and RELEASING (R47). -/
def BayLaw (b : Bay) : Prop := b.path = pathOf b.state

/-- The path law of a BAY in LISTEN or RUNNING (R47). -/
def State.pathLaw (s : State) : Prop := s.plays .bay = true → BayLaw s.bay

/-- No zone is driven above its target (R76, R77), and none at all while a string test holds the strings (R78). -/
structure PanelLaw (p : Panel) (b : Supply) : Prop where
  below : ∀ z : ZoneId, p.zones[z].applied ≤ p.zones[z].target
  held : b.test.isSome = true → ∀ z : ZoneId, p.zones[z].applied = 0

/-- A record is in progress exactly while the shock state is not CALM (R102). -/
def ShockLaw (k : Shock) : Prop := k.state = .calm ↔ k.episode = none

/-! ### Notes delivered (R171, R184) -/

/-- A note that is not a BEACON is heard by an awake part, comes from another station, names this station or
every station, and is admitted by the acceptance check: tests 2, 4 and 6 of R171, with the sender's entry refreshed as
test 3 leaves it. -/
def State.admits (s : State) (kind : Kind) (sender : Station) (target : Target) : Bool :=
  s.awake && sender != s.sys.station && (s.heard sender).targeted target
    && ((s.heard sender).violation kind sender).isNone

/-- The kind, sender and target of a note that parts consume and that is no BEACON (R183). -/
def noteOf : Instr → Option (Kind × Station × Target)
  | .noteNotConsumed kind k t => if notConsumed kind || kind == .beacon then none else some (kind, k, t)
  | .fall k t _ _ => some (.fall, k, t)
  | .impact k t _ _ _ _ => some (.impact, k, t)
  | .lost k t => some (.lost, k, t)
  | .fault k t _ => some (.fault, k, t)
  | .noteGarbled bytes bad =>
    if formTest bytes then
      match bad, noteHeader bytes with
      | .topic _ _ _, some (.ask, k, t) => some (.ask, k, t)
      | .step, some (.writeConfig, k, t) => some (.writeConfig, k, t)
      | _, _ => none
    else none
  | .calm k t _ reason _ _ => if reason = .interrupted then none else some (.calm, k, t)
  | .roster k t payload => if (parseRoster payload).isSome then some (.roster, k, t) else none
  | .letGo k t _ => some (.letGo, k, t)
  | .releaseNo k t _ => some (.releaseNo, k, t)
  | .releaseWait k t _ => some (.releaseWait, k, t)
  | .taken k t _ => some (.taken, k, t)
  | .drained k t _ => some (.drained, k, t)
  | .gone k t => some (.gone, k, t)
  | .releaseAsk k t _ => some (.releaseAsk, k, t)
  | .settled k t _ => some (.settled, k, t)
  | .askStatus k t _ _ | .askRoster k t _ _ | .askPeers k t _ _ | .askZones k t _ _ | .askEpisode k t _ _
  | .askConditions k t _ _ | .askGuard k t _ _ | .askIdentity k t _ _ => some (.ask, k, t)
  | .setLevel k t _ _ _ => some (.setLevel, k, t)
  | .releaseBay k t => some (.releaseBay, k, t)
  | .testStrings k t => some (.testStrings, k, t)
  | .resetStation k t => some (.resetStation, k, t)
  | .attentionResume k t _ => some (.attentionResume, k, t)
  | .setMask k t _ => some (.setMask, k, t)
  | .readLog k t _ _ _ _ => some (.readLog, k, t)
  | .stopStream k t _ => some (.stopStream, k, t)
  | .collect k t _ => some (.collect, k, t)
  | .eraseRegion k t _ => some (.eraseRegion, k, t)
  | .protectV k t _ _ => some (.protectV, k, t)
  | .protectNv k t _ => some (.protectNv, k, t)
  | .clearNvAll k t => some (.clearNvAll, k, t)
  | .lockNv k t => some (.lockNv, k, t)
  | .writeConfigStart k t _ | .writeConfigSegment k t _ _ | .writeConfigFinish k t => some (.writeConfig, k, t)
  | .checkStore k t => some (.checkStore, k, t)
  | _ => none

/-- A console note is heard by a station in RUNNING, and admitted (R184, R194). -/
def State.admitsConsole (s : State) (kind : Kind) (sender : Station) (target : Target) : Bool :=
  s.admits kind sender target && s.sys.phase == .running

/-- The topic an ASK row names. -/
def topicOf : Instr → Option (Topic × Station × Target × Nat × Nat)
  | .askStatus k t i n => some (.status, k, t, i, n)
  | .askRoster k t i n => some (.roster, k, t, i, n)
  | .askPeers k t i n => some (.peers, k, t, i, n)
  | .askZones k t i n => some (.zones, k, t, i, n)
  | .askEpisode k t i n => some (.episode, k, t, i, n)
  | .askConditions k t i n => some (.conditions, k, t, i, n)
  | .askGuard k t i n => some (.guard, k, t, i, n)
  | .askIdentity k t i n => some (.identity, k, t, i, n)
  | _ => none

/-- The store operation that a console note asks for, with its sender and target; WRITE-CONFIG is taken by steps. -/
def storeOpOf : Instr → Option (StoreOp × Station × Target)
  | .collect k t n => some (.collect n, k, t)
  | .eraseRegion k t r => some (.eraseRegion r, k, t)
  | .protectV k t r (.val on) => some (.protectV r on, k, t)
  | .protectNv k t r => some (.protectNv r, k, t)
  | .clearNvAll k t => some (.clearNvAll, k, t)
  | .lockNv k t => some (.lockNv, k, t)
  | .checkStore k t => some (.checkStore, k, t)
  | _ => none

/-! ### What a command leaves -/

/-- Nothing differs but the outgoing note queue and the Console Service, and no condition has left the set: what an
operation that sends notes and sets conditions leaves. -/
def Tells (s t : State) : Prop :=
  t = { s with link := { s.link with queue := t.link.queue }, console := t.console }
    ∧ ∀ c, s.hasCond c = true → t.hasCond c = true

/-- The attention test is made in `u` and leads to `t` (R190): where it is met and the queue has room, an ATTENTION with
the set, the mask and the role joins the queue behind what stands there, and inhibits the next; where it is not met,
nothing changes. -/
structure MakesAttentionTest (u t : State) : Prop where
  made : t = u.attentionTest
  sent : u.running = true → (∃ c : Condition, u.hasCond c = true ∧ u.console.mask.has c.bit = false) →
    u.console.inhibited = false → u.console.stream = none → (u.peer 0).silent = false →
    roomOrdinary u.link.queue = true → t.console.inhibited = true ∧ t.link.queue = u.link.queue ++
      [{ target := .station 0, body := .attention u.console.conditions u.console.mask u.sys.role }]
  unmet : u.attentionMet = false → t = u

/-- A console command that has had its effect, which leaves `u`, is answered by a REPLY behind the notes of a queue
with room, and the attention test is made behind it (R189, R191). -/
structure AnswersAndTests (u t : State) (reply : Note) : Prop where
  answered : roomOrdinary u.link.queue = true → u.send reply = u.setQueue (u.link.queue ++ [reply])
  tested : MakesAttentionTest (u.send reply) t

/-- As `Tells`, with records handed to the Record Store beside the notes. -/
def TellsAndRecords (s t : State) : Prop :=
  t = { s with link := { s.link with queue := t.link.queue }, console := t.console, store := t.store }
    ∧ ∀ c, s.hasCond c = true → t.hasCond c = true

/-- A record handed over on the way from one state to another waits in the write queue, where the engine works, on no
erase, and the queue has room for it and for a DROP record of the same event (R141). -/
def Records (s t : State) (c : RecordContent) : Prop :=
  s.store.engine ≠ .idle → (∀ r cause, s.store.engine ≠ .erase r cause) → ordinaryRecords s.store.queue < 6 →
    s.store.queue.length < 7 → ∃ q ∈ t.store.queue, q.content = c

/-- The PACK record of an event that finds the bay in a state, with the latest pack sample (R62). -/
def State.packRecord (s : State) (cause : PackCause) (failing : Option FailingQuantity) (p : PackSample) : RecordContent :=
  .pack
    { cause := cause, stateBefore := s.bay.state, failing := failing, voltage := p.voltage, temperature := p.temperature,
      current := p.current, charge := s.bay.charge, shock := s.shock.state
      version := match s.image with
        | some i => i.record.version
        | none => 0 }

/-- A change of the roster between two states: a field of the record other than the version, the epoch and the system
load, which is sampled at a change (R12, R14). -/
def State.ChangesRoster (s t : State) : Prop :=
  { t.roster.record with
    version := s.roster.record.version, epoch := s.roster.record.epoch, load := s.roster.record.load } ≠ s.roster.record

/-- An event of the Roster Unit advances the version exactly where it changes the roster and the BASE publishes: the
load is sampled, the publish timer restarts, and a ROSTER with the whole record joins an outgoing queue that has room
for the event's notes, one for each station that waits (R12, R14, R35). The timer restarts whether or not the queue takes
the note (the model's choice, log entry 51). -/
structure PublishesChange (s t : State) : Prop where
  stands : s.publishing = false ∨ ¬ s.ChangesRoster t → t.roster.record.version = s.roster.record.version ∧
    t.roster.record.load = s.roster.record.load ∧ t.roster.publishTimer = s.roster.publishTimer
  advances : s.publishing = true → s.ChangesRoster t →
    t.roster.record.version = countUp s.roster.record.version ∧ t.roster.record.load = s.pins.load ∧
    t.roster.publishTimer = some 1000 ∧ (s.link.queue.length + s.roster.waitList.length ≤ 2 →
      { target := .all, body := .roster t.roster.record } ∈ t.link.queue)
  epoch : t.roster.record.epoch = s.roster.record.epoch

/-- A SETTLED note is due to the lowest-numbered BASE that is not silent: in LISTEN it is owed, and in RUNNING it joins
an outgoing queue with room for the event's notes; without such a BASE no SETTLED is queued (R110). -/
structure SettledIsDue (s t : State) (n : SettledNote) : Prop where
  owed : s.listening = true → t.shock.settledOwed = s.shock.settledOwed ++ [n]
  noneOwed : s.running = true → t.shock.settledOwed = s.shock.settledOwed
  sent : s.running = true → s.link.queue.length ≤ 2 → ∀ j, s.present j .base = true →
    (∀ i, i < j → s.present i .base = false) → { target := .station j, body := .settled n } ∈ t.link.queue
  unsent : s.listening = true ∨ (∀ j, s.present j .base = false) →
    ∀ m ∈ t.link.queue, m.kind = .settled → m ∈ s.link.queue

/-- The SETTLED note of an episode record with its result (R110). -/
def SettledFields (n : SettledNote) (d : DropRecord) (result : CheckResult) (late : Bool) : Prop :=
  n.count = d.count ∧ n.source = d.source ∧ n.sourceStation = d.sourceStation ∧ n.result = result ∧
    n.peak = d.peak ∧ n.axis = d.axis ∧ n.impacts = d.impactCount ∧ n.late = late

/-- The role check of a BAY or LID has given its result: the record in progress takes it and its SETTLED is due, not
late (R109, R110); a closed record that awaits it takes it in its place, its SETTLED is due, late, and its DROP record
is handed over (R113, step 3); and where no record awaits it, none takes it (R114). -/
structure GivesResult (s t : State) (result : CheckResult) : Prop where
  now : s.shock.closed = none → ∀ e, s.shock.episode = some e → e.checkPending = true →
    t.shock.closed = none ∧ t.shock.episode = some { e with
      checkPending := false, drop := { e.drop with checkResult := some result } } ∧
    ∀ n, SettledFields n e.drop result false → SettledIsDue s t n
  late : ∀ e, s.shock.closed = some e → e.checkPending = true →
    t.shock.closed = none ∧ t.shock.episode = s.shock.episode ∧
    Records s t (.drop { e.drop with checkResult := some result } none) ∧
    ∀ n, SettledFields n e.drop result true → SettledIsDue s t n
  unasked : s.shock.closed = none → (∀ e, s.shock.episode = some e → e.checkPending = false) → t.shock = s.shock

/-- The commands that move a line or a sensor of the part. -/
def movesPins : Instr → Bool
  | .powerOnReset _ _ | .pinReset | .resetnFall | .alertLineChange _ | .adapterChange _ | .publishTimer _
  | .chargeReport _ | .presentRise _ | .presentFall | .leverRise | .leverFall | .headroomReport _ _
  | .holdChange _ => true
  | _ => false

/-- The commands that reset the part, or may: the resets, the reset line, the loss of the supply, and RESET-STATION
with the sending of its REPLY (R195, R201). -/
def mayReset : Instr → Bool
  | .powerOnReset _ _ | .pinReset | .resetnFall | .alwaysOnSupplyLoss | .noteSent | .resetStation _ _ => true
  | _ => false

/-- The commands of a start (R202, R204). -/
def ofStart : Instr → Bool
  | .enterListen | .enterRunning => true
  | _ => false

/-- The flash addresses the engine's operation works on (R137, R142, R144, R148, R166). -/
def EngineOp.worksOn (op : EngineOp) (a : Nat) : Bool :=
  match op with
  | .program r off bytes _ _ => regionBase r + off ≤ a && a < regionBase r + off + bytes.length
  | .erase r _ => inRegion r a
  | .marks todo _ => todo.head? == some a
  | .configProgram off todo _ => off ≤ a && a < off + (todo.headD []).length
  | .idle | .flagProgram _ | .flagClear | .check => false

/-- The flash addresses that the engine's operation, or a suspended erase, works on (R145). -/
def Store.worksOn (st : Store) (a : Nat) : Bool :=
  st.engine.worksOn a || (match st.suspended with
    | some e => inRegion e.region a
    | none => false)

/-- The engine works on the protection row (R160, R161). -/
def Store.worksOnFlags (st : Store) : Bool :=
  match st.engine with
  | .flagProgram _ | .flagClear => true
  | _ => false

/-- Every block at its reset values, whatever the station's role (R20, R43, R63, R83, R99, R120, R136, R155, R168,
R187, R200), with the path driver of R63. -/
structure AtReset (t : State) (path : Bool) : Prop where
  config : t.config = Configuration.defaults
  link : t.link = {}
  roster : t.roster = RosterUnit.reset t.pins.adapter
  image : t.image = none
  bay : t.bay = { path := path }
  panel : t.panel = Panel.reset Configuration.defaults
  supply : t.supply = {}
  shock : t.shock = {}
  coord : t.coord = {}
  store : t.store = {}
  console : t.console = {}
  clock : t.sys.clock = 0
  listen : t.sys.listenTimer = none

/-- What a reset leaves of the flash (R155): all that the engine and a suspended erase do not work on, as it was; a
record whose program is cut, bad (R142); a region whose erase is cut, not blank, and one of the log ring with an erased
first byte, a garbled header or a damaged tail, as the walk of the start scan finds them (R144, R149); and region 0 without
a whole configuration record, where one was being erased or programmed (R166). -/
structure CutsFlash (s t : State) : Prop where
  kept : ∀ a, s.store.worksOn a = false → flashByte t.flash.cells a = flashByte s.flash.cells a
  flags : s.store.worksOnFlags = false → t.flash.nFlags = s.flash.nFlags
  program : ∀ r off bytes sequence drop, s.store.engine = .program r off bytes sequence drop → 12 < bytes.length →
    (∀ x, s.store.suspended = some x → x.region ≠ r) →
    recordGood (flashRead t.flash.cells (r.val * 4096 + off) bytes.length) = false
  erase : ∀ r, ((∃ cause, s.store.engine = .erase r cause) ∧ s.store.suspended = none ∨
      ∃ x, s.store.suspended = some x ∧ x.region = r) →
    (r ≠ 0 → regionErased t.flash.cells r = false) ∧
    (inRing r = true → flashByte t.flash.cells (r.val * 4096) = 255#8 ∨ tailDamaged t.flash.cells r = true) ∧
    (r = 0 → endsWithCheck (flashRead t.flash.cells 0 68) = false)
  config : ∀ off segment todo n, s.store.engine = .configProgram off (segment :: todo) n → segment ≠ [] →
    off + segment.length ≤ 68 → s.store.suspended = none →
    regionErased t.flash.cells 0 = false ∧ endsWithCheck (flashRead t.flash.cells 0 68) = false

/-- The straps make the part a BAY (R201). -/
def Pins.strappedBay (p : Pins) : Bool := p.roleStrap == 2 && p.addrStrap != 0

/-- What the first act of START reads from the straps (R201). -/
structure StrapsRead (t : State) (cause : ResetCause) : Prop where
  station : t.sys.station = t.pins.addrStrap
  phase : t.sys.phase = if t.pins.roleStrap = 3 ∨ t.pins.addrStrap = 0 then .strapFault else .start
  role : t.pins.roleStrap ≠ 3 →
    t.sys.role = if t.pins.roleStrap = 0 then .base else if t.pins.roleStrap = 1 then .lid else .bay
  cause : t.sys.cause = cause

/-- A roster record whose fields lie in the ranges of R1 and R2. -/
def rosterFits (r : Roster) : Bool :=
  r.version < 65536 && r.epoch < 256 && r.load < 65536
    && [0, 375, 500, 675, 900, 1200, 1500].contains r.allowance && r.leaving != some 0
    && r.entries.length ≤ 3 && r.entries.all fun e => e.station != 0 && e.weight ≤ 16 && e.charge ≤ 100

/-- The targets of a LID's zones sum to at most the effective allowance it holds (R74, R76). -/
def State.lightLaw (s : State) : Prop := s.plays .lid = true → sumZones s.panel Zone.target ≤ s.effective

/-! ### What the start scan finds (R149) -/

/-- A record of a length has its header at an offset of a region, and ends within it: the kind bits of byte 0 hold 1..6,
its bits 3..6 are 0, and the length field lies in 14..40 (R149). -/
def RecordStands (cells : List Host.Cell) (r : Region) (off length : Nat) : Prop :=
  off < 4096 ∧ length = (flashByte cells (r.val * 4096 + off + 1)).toNat ∧ 14 ≤ length ∧ length ≤ 40 ∧
    off + length ≤ 4096 ∧ ∀ b, b = (flashByte cells (r.val * 4096 + off)).toNat →
      1 ≤ b % 8 ∧ b % 8 ≤ 6 ∧ b / 8 % 16 = 0

/-- The records of a region's walk, with their offsets, and its fill offset: they stand one behind another from offset
0, and behind the last none stands; the walk ends there at an erased byte, and otherwise the fill offset is 4096
(R149). -/
structure WalksRegion (cells : List Host.Cell) (r : Region) (records : List (Nat × List Byte)) (fill : Nat) : Prop where
  chained : ∀ i p, records[i]? = some p → p.1 = ((records.take i).map fun q => q.2.length).sum
  stand : ∀ p ∈ records, RecordStands cells r p.1 p.2.length ∧
    p.2 = flashRead cells (r.val * 4096 + p.1) p.2.length
  ends : ∀ off, off = (records.map fun q => q.2.length).sum → (∀ n, ¬ RecordStands cells r off n) ∧
    fill = if off < 4096 ∧ flashByte cells (r.val * 4096 + off) = 255#8 then off else 4096

/-- The table entry of a region with the records of its walk: BLANK with an erased first byte, the records counted as
good or bad by their check, the DROP records without the collected mark, and the lowest and highest sequence of the good
records (R149). -/
structure ScanFinds (cells : List Host.Cell) (r : Region) (records : List (Nat × List Byte)) (e : RegionEntry) :
    Prop where
  walk : WalksRegion cells r records e.fill
  state : e.state = if flashByte cells (r.val * 4096) = 255#8 then .blank else .written
  good : e.good = records.countP fun p => recordGood p.2
  bad : e.bad = records.countP fun p => !recordGood p.2
  uncollected : e.uncollected = records.countP fun p => recordKind p.2 == 2 && markAbsent p.2
  none : (e.first = none ∧ e.last = none) ↔ ∀ p ∈ records, recordGood p.2 = false
  first : ∀ n, e.first = some n → (∃ p ∈ records, recordGood p.2 = true ∧ recordSequence p.2 = n) ∧
    ∀ p ∈ records, recordGood p.2 = true → n ≤ recordSequence p.2
  last : ∀ n, e.last = some n → (∃ p ∈ records, recordGood p.2 = true ∧ recordSequence p.2 = n) ∧
    ∀ p ∈ records, recordGood p.2 = true → recordSequence p.2 ≤ n

/-! ### The log and its stream (R147, R196 to R199) -/

/-- The sequence that places a region in the log order: its first, and for one of bad records alone the first of the
next region in ring order that has one (R147). -/
def Store.PlacedAt (st : Store) (r : Region) (n : Nat) : Prop :=
  (st.entry r).first = some n ∨ (st.entry r).first = none ∧ ∃ k, k < 14 ∧
    (st.entry (ringAfter r (k + 1))).first = some n ∧ ∀ i, i < k → (st.entry (ringAfter r (i + 1))).first = none

/-- The records of the log in log order: region by region, each of the ring that is WRITTEN once, in flash order; the
regions ascend by the sequence that places them, one of bad records alone ahead of the region that places it (R147; of
the regions between, the model's reading, log entry 19). -/
def State.InLogOrder (s : State) (records : List (Position × List Byte)) : Prop :=
  ∃ l : List Region, records = (l.flatMap fun r => (walkRegion s.flash.cells r).1.map fun p =>
      (({ region := r, offset := p.1 } : Position), p.2)) ∧
    l.Nodup ∧ (∀ r, r ∈ l ↔ inRing r = true ∧ (s.store.entry r).state = .written) ∧
    l.Pairwise fun a b => ∀ m n, s.store.PlacedAt a m → s.store.PlacedAt b n →
      m ≤ n ∧ ((s.store.entry a).first ≠ none → (s.store.entry b).first = none → m < n)

/-- A record ends the stream once its last SEG is queued, as the one sent behind `ahead` others: a bad one with
check-stop set, the good one with the end sequence, or the last that the COUNT asks for (R197). -/
def Stream.EndsWith (st : Stream) (ahead : Nat) (bytes : List Byte) : Prop :=
  st.checkStop = true ∧ recordGood bytes = false ∨
    (∃ e, st.limit = .toNewest e ∧ recordGood bytes = true ∧ recordSequence bytes = e) ∨
    ∃ n, st.limit = .count n ∧ n ≤ ahead + 1

/-- The stream has still to send a record of a region: one at its next position, or behind it in log order and no
further than the record that ends it (R199). -/
def State.OwesRecordIn (s : State) (st : Stream) (r : Region) : Prop :=
  ∃ p, s.streamNext st = some p ∧ ∃ before rest, s.logRecords = before ++ rest ∧ (∀ x ∈ before, x.1 ≠ p) ∧
    (∃ b, rest.head? = some (p, b)) ∧ ∃ i x, rest[i]? = some x ∧ x.1.region = r ∧
      ∀ j y, j < i → rest[j]? = some y → ¬ st.EndsWith j y.2

/-! ### The bay acts on its image (R49, R56, R60) -/

/-- A BAY acts on the image it holds, by the table of R49: with CARRYING and weight a READY bay closes its path and
sends TAKEN, which joins an outgoing queue with room; with RELEASING a CARRYING bay prepares; with CARRYING a RELEASING
bay returns; and otherwise the path opens. Its moves of the path to and from READY wait while they are deferred, and the
rescue grace suppresses the return to READY (R56), also past its end until the image is replaced (the model's reading,
log entry 37). -/
structure ActsOnImage (s t : State) (defer : Prop) : Prop where
  unfed : s.image = none → t.bay.state = s.bay.state ∧ t.bay.path = s.bay.path
  acts : ∀ i, s.image = some i → ∀ carry back release : Prop,
    (carry ↔ ∃ e, rosterEntry i.record s.sys.station = some e ∧ e.state = .carrying ∧ 0 < e.weight) →
    (back ↔ ∃ e, rosterEntry i.record s.sys.station = some e ∧ e.state = .carrying) →
    (release ↔ ∃ e, rosterEntry i.record s.sys.station = some e ∧ e.state = .releasing) →
    (s.bay.state = .ready →
      (carry ∧ ¬ defer → t.bay.state = .carrying ∧ t.bay.path = true ∧ (s.link.queue.length ≤ 2 →
        { target := .station i.sender, body := .taken i.record.version } ∈ t.link.queue)) ∧
      (¬ carry ∨ defer → t.bay.state = .ready ∧ t.bay.path = s.bay.path)) ∧
    (s.bay.state = .carrying →
      (release → t.bay.state = .releasing ∧ t.bay.path = true ∧ t.bay.drainedSent = false ∧ t.bay.ask = .none) ∧
      (carry → t.bay.state = .carrying ∧ t.bay.path = s.bay.path ∧ t.bay.grace = none) ∧
      (¬ release → ¬ carry → ∀ opens : Prop, (opens ↔ ¬ defer ∧ s.bay.grace = none ∧ s.bay.graceSkipped = false) →
        (opens → t.bay.state = .ready ∧ t.bay.path = false) ∧
        (¬ opens → t.bay.state = .carrying ∧ t.bay.path = s.bay.path))) ∧
    (s.bay.state = .releasing →
      (back → t.bay.state = .carrying ∧ t.bay.path = true) ∧
      (release ∨ ¬ back ∧ defer → t.bay.state = .releasing ∧ t.bay.path = s.bay.path) ∧
      (¬ back → ¬ release → ¬ defer → t.bay.state = .ready ∧ t.bay.path = false)) ∧
    (s.bay.state ≠ .ready → s.bay.state ≠ .carrying → s.bay.state ≠ .releasing →
      t.bay.state = s.bay.state ∧ t.bay.path = s.bay.path)

/-! ### How an episode starts and ends at a station (R103, R104, R113, R115) -/

/-- A station in CALM has met a fall, but for what drives it: the Shock Monitor's state, count, window and record in
progress, and the reactions of the station's blocks to the leaving of CALM (R40, R96, R102 to R104, R115, R118, R122,
R199). -/
structure LeavesCalm (s t : State) (source : Source) (station : Option Station) : Prop where
  state : t.shock.state = .falling
  count : t.shock.count = countUp s.shock.count
  window : t.shock.fallWindow = some 1000
  started : ∃ e, t.shock.episode = some e ∧ e.checkPending = false ∧ e.drop.source = source
    ∧ e.drop.sourceStation = station ∧ e.drop.count = countUp s.shock.count ∧ e.drop.impactCount = 0
    ∧ e.drop.peak = 0 ∧ e.drop.checkResult = none ∧ e.drop.duringHandover = s.handoverSeen
  stream : ∀ x, s.console.stream = some x → x.ending = none →
    ∃ y, t.console.stream = some y ∧ y.ending = some .shockCut
  dark : s.sys.role = .lid → ∀ z : ZoneId, t.panel.zones[z].target = 0 ∧ t.panel.zones[z].applied = 0
  overtaken : s.sys.role = .lid → ∀ x, s.supply.test = some x → x.trigger ≠ .checking → t.supply.test = none
  opened : s.coordinates = true → t.coord.state = .opened ∧ t.coord.count = countUp s.shock.count
    ∧ t.coord.extras = [] ∧ t.coord.participants = s.participantsNow
  suspended : s.coordinates = true → ∀ sl, s.roster.slot = some sl → sl.phase ≠ .suspended →
    t.roster.slot = some { sl with phase := .suspended, suspensions := satUp 255 sl.suspensions }
      ∧ t.roster.handoverTimer = none
  kept : t = { s with
    shock := t.shock, link := { s.link with queue := t.link.queue, laDrive := t.link.laDrive }
    console := t.console, panel := t.panel, supply := t.supply, roster := t.roster, coord := t.coord }
  record : t.roster.record = s.roster.record ∧ t.supply.results = s.supply.results ∧ t.shock.closed = s.shock.closed

/-- A station's own episode has ended, with its line at rest (R113, R115): the shock state is CALM with no record in
progress, EPISODE_END is set, a record whose role check still runs waits for its result, and any other is handed to the
Record Store, where it joins the queue of an engine at work. A BAY acts on its image and makes the re-ask that its flag
and its lever call for (R49, R60), and a LID forms its demands and targets with the shock fader at 255, its stage leaving
OFF where a zone comes to have a target (R70, R75, R86, from none to some, the model's reading, log entry 21). -/
structure ReturnsToCalm (s t : State) (how : CalmBy) : Prop where
  state : t.shock.state = .calm
  episode : t.shock.episode = none
  checking : t.shock.checking = none
  owed : t.shock.calmOwed = false
  run : t.shock.freeFall = 0
  count : t.shock.count = s.shock.count
  told : t.hasCond .episodeEnd = true
  waits : ∀ e, s.shock.episode = some e → e.checkPending = true → t.shock.closed = some { e with
    drop := { e.drop with calmBy := how, outcome := if 0 < e.drop.impactCount then .impact else .noImpact } }
  closed : (∀ e, s.shock.episode = some e → e.checkPending = false) → t.shock.closed = s.shock.closed
  handed : ∀ e, s.shock.episode = some e → e.checkPending = false → s.store.engine ≠ .idle →
    (∀ r cause, s.store.engine ≠ .erase r cause) → s.store.queue.length < 8 → ∃ q ∈ t.store.queue, q.content = .drop
      { e.drop with calmBy := how, outcome := if 0 < e.drop.impactCount then .impact else .noImpact } none
  others : (s.sys.role ≠ .bay → t.bay = s.bay) ∧ (s.sys.role ≠ .lid → t.panel = s.panel ∧ t.supply = s.supply)
  acts : s.sys.role = .bay → ActsOnImage s t (s.sys.phase = .listen)
  asks : s.sys.role = .bay → t.bay.reAsk = false ∧ ∀ asks : Prop,
    (asks ↔ s.bay.reAsk = true ∧ s.pins.lever = true ∧ s.running = true ∧ s.bay.ask = .none ∧
      (t.bay.state = .seated ∨ t.bay.state = .ready ∨ t.bay.state = .carrying ∨ t.bay.state = .faulted)) →
    (asks → t.bay.ask = .asked ∧ t.bay.origin = .lever ∧ t.bay.answer = some 1000 ∧ (s.link.queue.length ≤ 2 →
      { target := s.baseTarget, body := .releaseAsk .lever } ∈ t.link.queue)) ∧
    (¬ asks → t.bay.ask = s.bay.ask ∨ t.bay.ask = .none ∧ t.bay.state = .releasing)
  lights : s.sys.role = .lid →
    s.supply.low = true ∨ (∀ z : ZoneId, s.compared z = true → s.pins.headroomLow[z] = false) → ∀ lit : Stage → State,
    (∀ g, lit g = ({ s with shock := t.shock, supply := { s.supply with stage := g } } : State).retarget) →
    ∀ leaves : Prop, (leaves ↔ s.supply.stage = .off ∧ (∃ z : ZoneId, (lit .off).panel.zones[z].target ≠ 0) ∧
      ∀ z : ZoneId, s.panel.zones[z].target = 0) →
    (¬ leaves → t.supply.stage = s.supply.stage) ∧
    (leaves → ∀ releasing : Prop, (releasing ↔ ∃ i, s.image = some i ∧ ∃ e ∈ i.record.entries, e.state = .releasing) →
      (s.config.boostMode = .boost ∧ ¬ releasing → t.supply.stage = .boost) ∧
      (s.config.boostMode ≠ .boost ∨ releasing → t.supply.stage = .pass)) ∧
    (∀ z : ZoneId, t.panel.zones[z].demand = (lit t.supply.stage).panel.zones[z].demand ∧
      t.panel.zones[z].target = (lit t.supply.stage).panel.zones[z].target ∧
      t.panel.zones[z].applied ≤ t.panel.zones[z].target) ∧
    t.panel = { s.panel with zones := t.panel.zones, ramp := t.panel.ramp } ∧
    t.supply = { s.supply with
      stage := t.supply.stage, indications := t.supply.indications, offTimer := t.supply.offTimer }
  kept : t = { s with
    shock := t.shock, link := { s.link with queue := t.link.queue }, console := t.console, store := t.store
    bay := t.bay, panel := t.panel, supply := t.supply }

/-! ### How the coordinator's episode ends (R41, R42, R126 to R130) -/

/-- A station of either list whose SETTLED result was FAULT (R41). -/
def Coordinator.Faulted (c : Coordinator) (j : Station) : Prop :=
  ∃ p ∈ c.participants ++ c.extras, p.station = j ∧ p.result = some .fault

/-- A station that a close with CALM marks UNSETTLED: a participant without a result, or one so marked (R126, R127). -/
def Coordinator.GaveUp (c : Coordinator) (j : Station) : Prop :=
  (∃ p ∈ c.participants, p.station = j ∧ (p.result = none ∨ p.mark = .unsettled)) ∨
    ∃ p ∈ c.extras, p.station = j ∧ p.mark = .unsettled

/-- A judgement that ends the handover: the leaving bay has failed, or a taker has, before LET-GO and without cover
left (R37, R41). -/
def State.FailsHandover (s : State) (sl : Slot) (failed : Station → Prop) : Prop :=
  failed sl.leaving ∨ (∃ j ∈ sl.takers, failed j) ∧ sl.letGoSent = false ∧
    coverFor s.config.reserve s.roster.record sl.leaving = false

/-- The judgement of R41 on a SUSPENDED slot. The failed takers leave, with their confirmations, as lost takers; a
handover that fails is aborted with COVER_LOST, its wait list held at an interruption (R36, R37); and another stays
SUSPENDED at an interruption, and resumes at a close with CALM: in FREEING where LET-GO was sent, and else in SHIFTING
with the test of R32 at once (R42). -/
structure JudgesHandover (s t : State) (failed : Station → Prop) (calm : Bool) : Prop where
  aborts : ∀ sl, s.roster.slot = some sl → sl.phase = .suspended → s.FailsHandover sl failed →
    calm = false ∨ s.roster.waitList = [] →
    t.roster.slot = none ∧ t.roster.handoverTimer = none ∧ t.roster.record.leaving = none ∧
    t.roster.waitList = s.roster.waitList ∧ t.hasCond .swapAbort = true ∧
    (s.running = true → s.link.queue.length ≤ 2 →
      { target := .station sl.leaving, body := .releaseNo .coverLost } ∈ t.link.queue) ∧
    ∃ x : SwapRecord, Records s t (.swap x) ∧ x.outcome = .coverLost ∧ x.leaving = sl.leaving ∧ x.origin = sl.origin ∧
      x.drained = sl.drained ∧ x.evidence = .none ∧ x.confirmed = [] ∧ x.suspensions = sl.suspensions ∧
      (∀ j, j ∈ x.takers ↔ j ∈ sl.takers ∧ ¬ failed j ∧ j ∉ sl.confirmed) ∧
      ∀ j, j ∈ x.lostTakers ↔ j ∈ sl.lostTakers ∨ j ∈ sl.takers ∧ failed j
  stays : ∀ sl, s.roster.slot = some sl → sl.phase = .suspended → ¬ s.FailsHandover sl failed →
    t.roster.record = s.roster.record ∧ ∃ y, t.roster.slot = some y ∧ y.leaving = sl.leaving ∧ y.origin = sl.origin ∧
      y.drained = sl.drained ∧ (∀ j, j ∈ y.takers ↔ j ∈ sl.takers ∧ ¬ failed j) ∧
      (∀ j, j ∈ y.confirmed ↔ j ∈ sl.confirmed ∧ ¬ (j ∈ sl.takers ∧ failed j)) ∧
      (∀ j, j ∈ y.lostTakers ↔ j ∈ sl.lostTakers ∨ j ∈ sl.takers ∧ failed j) ∧
      (calm = false → y.phase = .suspended ∧ y.letGoSent = sl.letGoSent ∧
        t.roster.handoverTimer = s.roster.handoverTimer) ∧
      (calm = true → t.roster.handoverTimer = some 3000 ∧
        ∀ ends : Prop, (ends ↔ sl.letGoSent = false ∧ sl.drained = true ∧ ∀ j ∈ y.takers, j ∈ y.confirmed) →
          (ends → y.phase = .freeing ∧ y.letGoSent = true ∧ (s.running = true → s.link.queue.length ≤ 2 →
            { target := .station sl.leaving, body := .letGo .handover } ∈ t.link.queue)) ∧
          (¬ ends → y.letGoSent = sl.letGoSent ∧ y.phase = if sl.letGoSent = true then .freeing else .shifting))

/-- The coordinator has closed its episode with CALM, its line at rest (R113, R126 to R129): the episode state and the
shock state are CALM, EPISODE_END is set, the handover is judged and resumes, CALM joins an outgoing queue with room in
RUNNING, and the DROP record with the summary joins the queue of an engine at work. -/
structure ClosesEpisode (s t : State) (reason : CloseReason) : Prop where
  coord : t.coord = {}
  state : t.shock.state = .calm
  episode : t.shock.episode = none
  checking : t.shock.checking = none
  count : t.shock.count = s.shock.count
  closed : t.shock.closed = s.shock.closed
  told : t.hasCond .episodeEnd = true
  judged : (∀ j, s.lags j = false) → JudgesHandover s t (fun j => s.coord.Faulted j ∨ s.coord.GaveUp j) true
  announced : (∀ j, s.lags j = false) → s.running = true →
    s.roster.slot = none ∧ roomOrdinary s.link.queue = true ∨ s.link.queue.length ≤ 2 →
    ∃ n ∈ t.link.queue, n.target = .all ∧ ∃ unsettled, n.body = .calm s.coord.count reason
      ((s.coord.participants.countP fun p => p.mark == .settled && p.result != none) +
        s.coord.extras.countP fun p => p.mark == .settled) unsettled ∧ ∀ j, j ∈ unsettled ↔ s.coord.GaveUp j
  recorded : ∀ e, s.shock.episode = some e → s.store.engine ≠ .idle → (∀ r cause, s.store.engine ≠ .erase r cause) →
    s.store.queue.length < 8 → ∃ q ∈ t.store.queue, ∃ x, x.reason = reason ∧
      x.participantCount = s.coord.participants.length ∧ q.content = .drop { e.drop with
        calmBy := .base, outcome := if 0 < e.drop.impactCount then .impact else .noImpact } (some x)
  kept : t = { s with
    roster := t.roster, link := { s.link with queue := t.link.queue }, console := t.console, store := t.store
    shock := t.shock, coord := {} }

/-- The alert line starts no episode at a return to CALM: no other station drives it, or this one does (R104). -/
def State.lineRests (s : State) : Bool := !s.pins.laOthers || s.link.laDrive

end Sys2Proof.Machine
end

