-- ==== Sys2Proof/Certificates/Slice0/Obligations.lean ====
section
/-! DEFINITION. The statements about the part for the provers: the machine, its laws, its resets, and then the blocks
in the order of the manual. -/

section

open Sys2Proof Sys2Proof.Machine

/-! ### The machine -/

/-- A step carries out the command at the front of the queue on the state with the queue's rest. -/
def Obligations.StepRunsTheFrontCommand : Prop :=
  ∀ (c : Instr) (rest : List Instr) (s : State),
    step { s with pending := c :: rest } = exec c { s with pending := rest }

/-- With no command waiting a millisecond passes (the model's choice, log entry 9): the clock, the peer times and the
timers move on by one, the FREED timer pausing under the shock hold (R60), and what holds no time stands. What has come
due joins the queue, and nothing else, in the order given here (the model's choice, log entry 9): PEER_SILENT for each
peer that is not silent and has not been heard for 800 ms (R180), the command of each timer that has run out, the end
of the engine's operation when its time has run, and of each 1 ms program of COLLECT and WRITE-CONFIG (R138, R159,
R166), and the stream's work where there is room for it (R195, R197, R198; that a stream reads its next record when
there is room for its SEG is the model's choice, log entry 84). A part that is stopped stands still. That the time of a
peer never seen stands is the model's reading (log entry 40). -/
def Obligations.EmptyQueuePassesAMillisecond : Prop :=
  ∀ s : State, s.pending = [] →
    (s.active = false → step s = .next s) ∧
    (s.active = true → ∃ t, step s = .next t ∧
      t.sys = { s.sys with clock := s.sys.clock + 1, listenTimer := s.sys.listenTimer.map (· - 1) } ∧
      (∀ k : Station, t.peer k =
        if (s.peer k).seen then { s.peer k with time := satUp 65535 (s.peer k).time } else s.peer k) ∧
      t.link = { s.link with beaconTimer := s.link.beaconTimer.map (· - 1), peers := t.link.peers } ∧
      t.roster = { s.roster with
        handoverTimer := s.roster.handoverTimer.map (· - 1)
        publishTimer := s.roster.publishTimer.map (· - 1) } ∧
      t.bay = { s.bay with
        check := s.bay.check.map (· - 1)
        freed := if s.shockHold then s.bay.freed else s.bay.freed.map (· - 1)
        lostWait := s.bay.lostWait.map (· - 1)
        cooling := s.bay.cooling.map (· - 1)
        grace := s.bay.grace.map (· - 1)
        answer := s.bay.answer.map (· - 1)
        reAskDelay := s.bay.reAskDelay.map (· - 1)
        refused := s.bay.refused.map (· - 1) } ∧
      t.panel = { s.panel with ramp := s.panel.ramp.map (· - 1) } ∧
      t.supply = { s.supply with
        offTimer := s.supply.offTimer.map (· - 1)
        test := s.supply.test.map fun x => { x with timer := x.timer - 1 } } ∧
      t.shock = { s.shock with
        fallWindow := s.shock.fallWindow.map (· - 1)
        checking := s.shock.checking.map (· - 1) } ∧
      t.coord = { s.coord with closing := s.coord.closing.map (· - 1) } ∧
      t.store = { s.store with
        remaining := s.store.remaining - 1
        writeTimer := s.store.writeTimer.map (· - 1) } ∧
      t.pins = s.pins ∧ t.config = s.config ∧ t.image = s.image ∧ t.flash = s.flash ∧
      t.console = s.console ∧ t.free = s.free ∧
      ∀ work : List Instr, work = (match t.console.stream with
        | some x =>
          if x.ending ≠ none then (if roomOrdinary t.link.queue = true then [.streamEndQueue] else [])
          else if x.queued < 2 ∧ roomOrdinary t.link.queue = true then [.streamAdvance] else []
        | none => []) →
      t.pending =
        (stations.filter fun k => (t.peer k).silent = false ∧ 800 ≤ (t.peer k).time).map .peerSilent ++
        (([(t.sys.listenTimer, .enterRunning), (t.link.beaconTimer, .beaconTimer),
          (t.roster.publishTimer, .publishTimer s.pins.load), (t.roster.handoverTimer, .handoverTimer),
          (t.bay.check, .packCheckEnd), (t.bay.grace, .rescueGraceEnd), (t.bay.freed, .freedTimer),
          (t.bay.lostWait, .lostTimer), (t.bay.cooling, .coolingTimer), (t.bay.answer, .answerTimer),
          (t.bay.reAskDelay, .reAskDelayTimer), (t.bay.refused, .refusedLampTimer), (t.panel.ramp, .rampTimer),
          (t.supply.offTimer, .offTimer), (t.shock.fallWindow, .fallWindowTimer),
          (t.shock.checking, .checkingTimer), (t.coord.closing, .closingTimer)] : List (Option Nat × Instr)).filter
            fun x => x.1 = some 0).map Prod.snd ++
        (match t.store.engine with
          | .idle => []
          | .marks _ _ => [.collectMarkDone]
          | .configProgram _ _ _ => [.configProgramDone]
          | .program .. => if t.store.remaining = 0 then [.recordProgramDone] else []
          | .erase _ _ => if t.store.remaining = 0 then [.regionEraseDone] else []
          | .flagProgram _ => if t.store.remaining = 0 then [.flagProgramDone] else []
          | .flagClear => if t.store.remaining = 0 then [.flagClearDone] else []
          | .check => if t.store.remaining = 0 then [.storeCheckDone] else []) ++
        (if t.store.writeTimer = some 0 then [.writeTimer] else []) ++
        (if roomOrdinary t.link.queue = true ∧ t.console.resetReplyLost = true then [.resetReplyRequeue] else []) ++
        (if roomOrdinary t.link.queue = true ∧ t.console.endsOwed ≠ [] then [.streamEndQueue] else []) ++ work)

/-- Every command answers a next state, and leaves the commands that wait. -/
def Obligations.EveryCommandAnswersNextAndLeavesTheQueue : Prop :=
  ∀ (c : Instr) (s : State), ∃ t, exec c s = .next t ∧ t.pending = s.pending

/-- No command but RESET-STATION changes a byte of flash outside the place the engine, or a suspended erase, works on,
or an N flag while the engine works on none. (A RESET-STATION may cut an operation that its own hearing has started.)
-/
def Obligations.BytesOutsideTheEnginesWorkStand : Prop :=
  ∀ (c : Instr) (s t : State), exec c s = .next t → (∀ k tgt, c ≠ .resetStation k tgt) →
    (∀ a, s.store.worksOn a = false → flashByte t.flash.cells a = flashByte s.flash.cells a) ∧
    (s.store.worksOnFlags = false → t.flash.nFlags = s.flash.nFlags)

/-- The pins follow the commands that move a line alone; the phase, the straps as read and the configuration in force
change only at a reset or a start; and another command leaves the blocks of the roles the station does not have as they
are. -/
def Obligations.PinsConfigurationAndOtherRolesStand : Prop :=
  (∀ (c : Instr) (s t : State), exec c s = .next t →
    (movesPins c = false → t.pins = s.pins) ∧
    (mayReset c = false → ofStart c = false → t.sys = s.sys ∧ t.config = s.config)) ∧
  (∀ (c : Instr) (s t : State), exec c s = .next t → mayReset c = false → ofStart c = false →
    (s.sys.role ≠ .base → t.roster = s.roster ∧ t.coord = s.coord ∧ t.link.deferred = s.link.deferred) ∧
    (s.sys.role ≠ .bay → t.bay = s.bay) ∧
    (s.sys.role ≠ .lid → t.panel = s.panel ∧ t.supply = s.supply) ∧
    (s.sys.role = .base → t.image = s.image))

/-! ### The laws of the blocks -/

/-- A step keeps the bounds and the order of the outgoing note queue (R174, R175). -/
def Obligations.StepKeepsTheNoteQueueLaw : Prop :=
  ∀ s t : State, NoteLaw s.link.queue → step s = .next t → NoteLaw t.link.queue

/-- A step keeps the bounds and the order of the write queue, the engine inside its regions, the buffer of a
configuration write within its length, and the flash in its canonical form (R137, R141, R165). -/
def Obligations.StepKeepsTheStoreLaw : Prop :=
  ∀ s t : State, s.storeLaw → step s = .next t → t.storeLaw

/-- A step keeps the roster's entries few and ascending, the wait list short, the leaving station the slot's, and the
handover timer running as the slot says (R1, R21 to R23, R40). -/
def Obligations.StepKeepsTheRosterLaw : Prop :=
  ∀ s t : State, RosterLaw s.roster → step s = .next t → RosterLaw t.roster

/-- A step keeps a bay's path closed exactly in CARRYING and RELEASING, in LISTEN and RUNNING (R47), every applied
drive at or below its target, and at 0 while a string test holds the strings (R76 to R78), and a record in progress
exactly while the shock state is not CALM (R102). -/
def Obligations.StepKeepsTheStationLaws : Prop :=
  (∀ s t : State, s.pathLaw → step s = .next t → t.pathLaw) ∧
  (∀ s t : State, PanelLaw s.panel s.supply → step s = .next t → PanelLaw t.panel t.supply) ∧
  (∀ s t : State, ShockLaw s.shock → step s = .next t → ShockLaw t.shock)

/-- The state after reset has every law: those of the note queue, the store, the roster, the path, the panel, the
episode record and the light. -/
def Obligations.ResetHoldsEveryLaw : Prop :=
  NoteLaw State.reset.link.queue ∧ State.reset.storeLaw ∧ RosterLaw State.reset.roster ∧ State.reset.pathLaw ∧
    PanelLaw State.reset.panel State.reset.supply ∧ ShockLaw State.reset.shock ∧ State.reset.lightLaw

/-! ### Resets and starts -/

/-- The three resets of R201 and the two ways to stop put every block at its reset values; a power-on opens the path, a
pin or station reset keeps it closed where the straps make a BAY (R63), and the straps are read at the start of START
(R201). The flash is kept, but for a program or an erase that the reset cuts, which the start scan finds bad or damaged
(R142, R144, R149, R155, R166); which bits such a cut leaves is free (log entry 5). Where the reset tables give no
value, the values are the model's choice (log entry 26), and so is it that a part keeps its path driver alone while it
is stopped (log entry 33). -/
def Obligations.ResetsGiveTheResetValues : Prop :=
  ∀ s : State,
    (∀ role addr, ∃ t, exec (.powerOnReset role addr) s = .next t ∧ AtReset t false ∧ StrapsRead t .powerOn ∧
      (s.storeLaw → CutsFlash s t) ∧
      t.sys.powered = true ∧ t.pins = { s.pins with roleStrap := role, addrStrap := addr }) ∧
    (∃ t, exec .pinReset s = .next t ∧ t.pins = { s.pins with resetLow := false } ∧ t.sys.powered = s.sys.powered ∧
      (s.sys.powered = true → AtReset t (s.bay.path && s.pins.strappedBay) ∧ StrapsRead t .pin ∧
        (s.storeLaw → CutsFlash s t)) ∧
      (s.sys.powered = false → t = { s with pins := { s.pins with resetLow := false } })) ∧
    (∃ t, exec .resetnFall s = .next t ∧ t.pins = { s.pins with resetLow := true } ∧ t.sys.powered = s.sys.powered ∧
      (s.active = true → AtReset t s.bay.path ∧ (s.storeLaw → CutsFlash s t)) ∧
      (s.active = false → t = { s with pins := { s.pins with resetLow := true } })) ∧
    (∃ t, exec .alwaysOnSupplyLoss s = .next t ∧ AtReset t s.bay.path ∧ t.pins = s.pins ∧ t.sys.powered = false ∧
      (s.storeLaw → CutsFlash s t)) ∧
    (AtReset s.stationReset (s.bay.path && s.pins.strappedBay) ∧ StrapsRead s.stationReset .station ∧
      s.stationReset.pins = s.pins ∧ s.stationReset.sys.powered = s.sys.powered ∧
      (s.storeLaw → CutsFlash s s.stationReset))

/-- After a power-on, a pin or a station reset the coordinator is CALM with both lists empty and the closing timer
stopped (R136), its count 0 (the model's choice, log entry 26) and the write queue empty (R155), so an episode in
progress is lost without a summary record. A part in STRAP_FAULT takes no note: each leaves the state as it was (R201).
-/
def Obligations.ResetLeavesTheCoordinatorCalm : Prop :=
  ∀ (s t : State),
    ((∃ role addr, exec (.powerOnReset role addr) s = .next t) ∨ (s.sys.powered = true ∧ exec .pinReset s = .next t)
      ∨ t = s.stationReset →
      t.coord.state = .calm ∧ t.coord.participants = [] ∧ t.coord.extras = [] ∧ t.coord.count = 0 ∧
        t.coord.closing = none ∧ t.store.queue = []) ∧
    (s.sys.phase = .strapFault → ∀ c note, noteOf c = some note → exec c s = .next s) ∧
    (s.sys.phase = .strapFault → ∀ k tgt b kind, exec (.beacon k tgt b) s = .next s ∧
      exec (.noteNotConsumed kind k tgt) s = .next s)

/-- ENTER_LISTEN ends START: the configuration is tested (R209), the flags and the start count are found (R151, R156):
one more than the count of the good START record with the highest sequence, 1 following 65535, and 1 without one. The
region table is what the scan finds (R149), but for an open region taken as BLANK that is not wholly erased, which is
made WRITTEN with fill offset 4096, in the same event (the model's reading, log entry 20); the open region is the one
with the newest sequence, or region 1 (R150); and a newest sequence of 4294967295 blocks the log, with LOG_FULL (R146).
The listen timer starts at 600 ms (R203), the roster is that of R20, the LID's start test runs (R93), a BAY takes its
starting state from its path driver and PRESENT (R63), and an alert line that stands high starts a remote episode
(R104), before the start test and the starting state (the model's choice, log entry 38). The epoch is 0 until RUNNING
is entered (the model's choice, log entry 26). -/
def Obligations.EnterListenStartsTheStation : Prop :=
  ∀ s : State, s.active = true → s.sys.phase = .start → ∃ t, exec .enterListen s = .next t ∧
    t.sys = { s.sys with phase := .listen, listenTimer := some 600, configRefused := t.sys.configRefused } ∧
    (∀ c, testConfig (regionErased s.flash.cells 0) (flashRead s.flash.cells 0 68) = .ok c →
      t.config = c ∧ t.sys.configRefused = none ∧ t.console.mask = c.mask ∧ t.store.vFlags = c.vDefaults) ∧
    (∀ e, testConfig (regionErased s.flash.cells 0) (flashRead s.flash.cells 0 68) = .error e →
      t.config = Configuration.defaults ∧ t.sys.configRefused = some e ∧ t.hasCond .configDefaulted = true ∧
      t.store.vFlags = 0x8001) ∧
    t.store.region0Written = !regionErased s.flash.cells 0 ∧
    (∀ starts : Nat → Nat → Prop,
      (∀ n c, starts n c ↔ ∃ r, inRing r = true ∧ ∃ p ∈ (walkRegion s.flash.cells r).1, recordGood p.2 = true ∧
        recordKind p.2 = 1 ∧ recordSequence p.2 = n ∧ recordStartCount p.2 = c) →
      ((∀ n c, ¬ starts n c) → t.store.startCount = 1) ∧
      (∀ n c, starts n c → (∀ m d, starts m d → m < n ∨ m = n ∧ d = c) →
        t.store.startCount = if c = 65535 then 1 else c + 1)) ∧
    (∀ r, inRing r = true → ∃ e, ScanFinds s.flash.cells r (walkRegion s.flash.cells r).1 e ∧
      t.store.regions[r] =
        if r = t.store.openRegion ∧ e.state = .blank ∧ regionErased s.flash.cells r = false then
          { e with state := .written, fill := 4096 } else e) ∧
    ((t.store.openRegion = 1 ∧ ∀ r, inRing r = true → t.store.regions[r].last = none) ∨
      inRing t.store.openRegion = true ∧ ∃ n, t.store.regions[t.store.openRegion].last = some n ∧
        (∀ r, inRing r = true → ∀ m, t.store.regions[r].last = some m → m ≤ n) ∧
        (n = 4294967295 → t.store.exhausted = true ∧ t.hasCond .logFull = true)) ∧
    t.roster = RosterUnit.reset s.pins.adapter ∧ t.flash = s.flash ∧ t.pins = s.pins ∧
    (s.sys.role = .lid → ∃ x, t.supply.test = some x ∧ x.trigger = .start ∧ x.timer = 100) ∧
    (s.sys.role = .bay → t.bay.state =
      if s.bay.path then .carrying else if s.pins.present then .seated else .empty) ∧
    (s.sys.role = .bay → s.bay.path = false → s.pins.present = true → t.bay.check = some 300) ∧
    (s.shock.state = .calm → s.pins.laOthers = true → s.link.laDrive = false → t.shock.state = .falling) ∧
    (s.pins.laOthers = false → t.shock = s.shock)

/-- ENTER_RUNNING: the listen timer has run out, the beacon timer starts at 250 ms and the first BEACON joins the queue
(R177), a BASE fixes its epoch (R13) and, if it is not DEFERRED, samples the load, recomputes, queues its first ROSTER
and starts its publish timer (R15), a BAY acts on its image (R49, R63), the SETTLED notes owed go to the
lowest-numbered BASE that is not silent (R110), a LID or BAY that hears no BASE sets BASE_SILENT (R180), and a GONE
owed is sent (R63). The attention test is made (R190): where a condition of the set, or BASE_SILENT, is outside the
mask and nothing holds ATTENTION back, one with at least the set before the entry joins the queue, and inhibits the
next. Each note joins the outgoing queue where it has room for them all. A START record is handed to the Record Store,
where it joins the queue of an engine at work (R204). That TAKEN and GONE go to the sender of the image, and GONE to
every station without one, is the model's reading (log entry 14). The load is the last reading of its line (the model's
choice, log entry 13), and the order of the blocks is the model's (log entry 38): the BEACON tells of the station
before its blocks act, the START record after. -/
def Obligations.EnterRunningBeginsTheWork : Prop :=
  ∀ s : State, s.listening = true → ∃ t, exec .enterRunning s = .next t ∧
    t.sys = { s.sys with phase := .running, listenTimer := none } ∧ t.link.beaconTimer = some 250 ∧
    (s.sys.role = .base → t.roster.record.epoch = s.store.startCount % 256) ∧
    (s.sys.role = .base → s.link.deferred = false →
      t.roster.record.load = s.pins.load ∧ t.roster.record.version = s.roster.record.version ∧
      t.roster.publishTimer = some 1000 ∧
      t.roster.record.entries = (recomputed s.config.reserve s.roster.held).entries ∧
      t.roster.record.allowance = (recomputed s.config.reserve s.roster.held).allowance ∧
      (s.link.queue.length ≤ 2 → { target := .all, body := .roster t.roster.record } ∈ t.link.queue)) ∧
    (roomOrdinary s.link.queue = true ∨ (∃ m ∈ s.link.queue, m.kind = .beacon) →
      { target := .all, body := .beacon s.formBeacon } ∈ t.link.queue) ∧
    (s.sys.role = .bay → ActsOnImage s t (s.shock.state ≠ .calm)) ∧ (s.sys.role ≠ .bay → t.bay = s.bay) ∧
    (∀ x : StartRecord, x.cause = s.sys.cause → x.config = s.sys.configRefused → x.role = s.sys.role →
      x.station = s.sys.station → x.deferred = s.link.deferred → x.shock = s.shock.state →
      x.nFlags = s.flash.nFlags → x.bay = (if s.sys.role = .bay then some t.bay.state else none) →
      Records s t (.start x)) ∧
    t.shock.settledOwed = [] ∧ t.bay.goneOwed = (s.bay.goneOwed && s.sys.role != .bay) ∧
    (s.link.queue.length + s.shock.settledOwed.length ≤ 2 → ∀ j, s.lowestBase = some j →
      ∀ n ∈ s.shock.settledOwed, { target := .station j, body := .settled n } ∈ t.link.queue) ∧
    (s.link.queue.length ≤ 2 → s.sys.role = .bay → s.bay.goneOwed = true →
      { target := s.baseTarget, body := .gone } ∈ t.link.queue) ∧
    (s.sys.role ≠ .base → s.lowestBase = none → t.hasCond .baseSilent = true) ∧
    (s.console.inhibited = false → s.console.stream = none → (s.peer 0).silent = false →
      s.link.queue.length + s.shock.settledOwed.length ≤ 1 → ∀ c : Condition, s.console.mask.has c.bit = false →
      s.hasCond c = true ∨ c = .baseSilent ∧ s.sys.role ≠ .base ∧ s.lowestBase = none →
      t.console.inhibited = true ∧ ∃ told : Bits16,
        { target := .station 0, body := .attention told s.console.mask s.sys.role } ∈ t.link.queue ∧
        ∀ d : Condition, s.hasCond d = true → told.has d.bit = true) ∧
    (∀ c, s.hasCond c = true → t.hasCond c = true) ∧ t.shock.state = s.shock.state ∧ t.coord = s.coord ∧
    t.link.peers = s.link.peers ∧ t.flash = s.flash ∧ t.pins = s.pins ∧ t.config = s.config

/-! ### The Link Interface -/

/-- A note handed to the outgoing queue is taken by the table of R175, by its first row that applies, and nothing else
changes but the conditions: LINK_OVERRUN where a note is lost. A condition that a rule sets joins the set and stays in
it, one that is in the set changes nothing, and the attention test that a joining makes hands an ATTENTION over where
it is met, which inhibits the next (R188, R190). The test is met exactly in RUNNING with a condition of the set outside
the mask, attention not inhibited, no log stream in progress and station 0 not silent (R190). -/
def Obligations.NotesAndConditionsAreTaken : Prop :=
  (∀ (s : State) (n : Note), s.takesKind n.kind = true →
    Tells s (s.send n) ∧
    (replacingKind n.kind = true → (∃ m ∈ s.link.queue, m.kind = n.kind) →
      s.send n = s.setQueue (s.link.queue.map fun m => if m.kind = n.kind then n else m)) ∧
    (n.urgent = false → (replacingKind n.kind = true → ∀ m ∈ s.link.queue, m.kind ≠ n.kind) →
      (ordinaryCount s.link.queue < 5 ∧ s.link.queue.length < 6 → s.send n = s.setQueue (s.link.queue ++ [n])) ∧
      (¬ (ordinaryCount s.link.queue < 5 ∧ s.link.queue.length < 6) →
        s.send n = s.setCond .linkOverrun ∧ (s.send n).hasCond .linkOverrun = true)) ∧
    (n.urgent = true →
      (s.link.queue.length < 6 →
        s.send n = s.setQueue (s.link.queue.filter Note.urgent ++ n :: s.link.queue.filter fun m => !m.urgent)) ∧
      (NoteLaw s.link.queue → s.link.queue.length = 6 → (∃ m ∈ s.link.queue, m.urgent = false) →
        n ∈ (s.send n).link.queue ∧ (s.send n).hasCond .linkOverrun = true ∧
        (s.send n).link.queue = s.link.queue.filter Note.urgent ++
          n :: (s.link.queue.filter fun m => !m.urgent).dropLast) ∧
      (s.link.queue.length = 6 → (∀ m ∈ s.link.queue, m.urgent = true) →
        s.send n = s.setCond .linkOverrun ∧ (s.send n).hasCond .linkOverrun = true))) ∧
  (∀ (s : State) (c : Condition),
    (s.setCond c).hasCond c = true ∧ Tells s (s.setCond c) ∧ (s.hasCond c = true → s.setCond c = s) ∧
    (s.hasCond c = false → s.setCond c = ({ s with console := { s.console with
      conditions := s.console.conditions.insert c.bit } } : State).attentionTest) ∧
    (s.attentionMet = true ↔ s.active = true ∧ s.sys.phase = .running ∧
      (∃ d : Condition, s.hasCond d = true ∧ s.console.mask.has d.bit = false) ∧ s.console.inhibited = false ∧
      s.console.stream = none ∧ (s.peer 0).silent = false) ∧
    (s.attentionMet = false → s.attentionTest = s) ∧
    (s.attentionMet = true → roomOrdinary s.link.queue = true →
      s.attentionTest.console.inhibited = true ∧ s.attentionTest.link.queue = s.link.queue ++
        [{ target := .station 0, body := .attention s.console.conditions s.console.mask s.sys.role }]) ∧
    (s.attentionMet = true → roomOrdinary s.link.queue = false →
      s.attentionTest.console.inhibited = s.console.inhibited ∧ s.attentionTest.hasCond .linkOverrun = true))

/-- The start and the withdrawal of a note: the head of the queue moves into an empty buffer and starts, a note that
withdrew starts again, and a BEACON or ROSTER that has not yet started again gives way to a newer one of its kind (R172
to R174). That the head joins the empty buffer at its start, and that a newer note takes the place at the withdrawal
and again at the new start, is the model's reading (log entry 12). -/
def Obligations.NotesStartAndWithdraw : Prop :=
  ∀ s : State, s.awake = true →
    (s.link.buffer = none → ∀ n rest, s.link.queue = n :: rest → exec .noteStart s =
      .next { s with link := { s.link with queue := rest, buffer := some { note := n, started := true } } }) ∧
    (∀ b, s.link.buffer = some b →
      (b.started = true → exec .noteStart s = .next s) ∧
      (b.started = false → exec .noteWithdraw s = .next s) ∧
      (∀ started : Bool, b.started = !started →
        exec (if started then .noteStart else .noteWithdraw) s =
          .next (match newerQueued s.link.queue b.note with
            | none => { s with link := { s.link with buffer := some { note := b.note, started := started } } }
            | some m => { s with link := { s.link with
                queue := s.link.queue.filter fun k => k.kind != b.note.kind
                buffer := some { note := m, started := started } } }))) ∧
    (s.link.buffer = none → exec .noteWithdraw s = .next s) ∧
    (s.link.buffer = none → s.link.queue = [] → exec .noteStart s = .next s)

/-- A note sent whole leaves the buffer, and the head of the queue moves in (R174); a SEG of the stream in progress
leaves one fewer to send (R197); and the REPLY of an owed reset is followed by the station reset (R195). That a note in
the buffer is sent whether or not its start was commanded is the model's reading (log entry 12), and the values of a
reset that no table gives are its choice (log entry 26). -/
def Obligations.NoteSentMovesTheQueueOn : Prop :=
  ∀ s : State, s.awake = true →
    (s.link.buffer = none → exec .noteSent s = .next s) ∧
    (∀ b, s.link.buffer = some b → ∀ t : State,
      t = { s with link := { s.link with
        queue := s.link.queue.tail
        buffer := s.link.queue.head?.map fun n => { note := n, started := false } } } →
      ((∀ g, b.note.body ≠ .seg g) → (s.console.resetOwed = true → ∀ v, b.note.body ≠ .reply .resetStation .done v) →
        exec .noteSent s = .next t) ∧
      (∀ g, b.note.body = .seg g → exec .noteSent s = .next { t with console := { s.console with
        stream := s.console.stream.map fun x =>
          if x.serial = g.stream then { x with queued := x.queued - 1 } else x } }) ∧
      (s.console.resetOwed = true → (∃ v, b.note.body = .reply .resetStation .done v) →
        ∃ u, exec .noteSent s = .next u ∧ AtReset u (s.bay.path && s.pins.strappedBay) ∧ StrapsRead u .station ∧
          u.pins = s.pins))

/-- A note that fails the form test sets LINK_NOISE and refreshes no peer (R171, test 1): bytes that fail it, a coded
field outside its values in a kind that is no console kind (R208), a ROSTER by its payload (R207; that an entry of
station 0 and a leaving station above 7 fail it is the model's reading, log entry 35), a CALM whose close reason is not
ALL_SETTLED or TIMEOUT (R128, R208). A note that passes it in all its fields is no garbled note, and changes nothing
here (the model's choice, log entry 34). A BEACON with this station's own number sets ADDR_CLASH, and the station keeps
running (R171, test 2, R181). The beacon timer's expiry restarts it at 250 ms and hands over the BEACON formed now,
which replaces a queued one (R175, R177), with the attention test behind it (R190); before RUNNING it does nothing. The
BEACON carries the phase, the shock state with its count, and the summary of the station's role (R46, R82, R94, R177,
R178). -/
def Obligations.NoiseClashAndTheBeaconTimer : Prop :=
  (∀ s : State, s.awake = true →
    (∀ c : Instr,
      (∃ bytes bad, c = .noteGarbled bytes bad ∧ (formTest bytes = false ∨
        (bad ≠ .none ∧ ∃ kind k tgt, noteHeader bytes = some (kind, k, tgt) ∧ consoleKind kind = false))) ∨
      (∃ k tgt payload, c = .roster k tgt payload ∧ parseRoster payload = none) ∨
      (∃ k tgt n settled unsettled, c = .calm k tgt n .interrupted settled unsettled) →
      ∃ t, exec c s = .next t ∧ t.hasCond .linkNoise = true ∧ Tells s t ∧ t.link.peers = s.link.peers) ∧
    (∀ bytes, formTest bytes = true → exec (.noteGarbled bytes .none) s = .next s) ∧
    (∀ tgt b, ∃ t, exec (.beacon s.sys.station tgt b) s = .next t ∧ t.hasCond .addrClash = true ∧ Tells s t ∧
      t.link.peers = s.link.peers)) ∧
  (∀ s : State,
    (s.running = true → s.link.beaconTimer ≠ none → ∃ t, exec .beaconTimer s = .next t ∧
      t.link = { s.link with beaconTimer := some 250, queue := t.link.queue } ∧
      t = { s with link := t.link, console := t.console } ∧
      MakesAttentionTest
        (({ s with link := { s.link with beaconTimer := some 250 } } : State).sendAll (.beacon s.formBeacon)) t ∧
      (roomOrdinary s.link.queue = true ∨ (∃ m ∈ s.link.queue, m.kind = .beacon) →
        { target := .all, body := .beacon s.formBeacon } ∈ t.link.queue)) ∧
    (s.running = false → exec .beaconTimer s = .next s)) ∧
  (∀ s : State, ∀ b : Beacon, b = s.formBeacon →
    b.phase = (if s.link.deferred then .deferred else .running) ∧ b.shock = s.shock.state ∧ b.count = s.shock.count ∧
    (s.sys.role = .base → b.summary = .base
      { version := if s.link.deferred then 0 else s.roster.record.version, adapter := s.roster.record.adapter
        episode := s.coord.state, slotBusy := s.roster.slot.isSome }) ∧
    (s.sys.role = .lid → b.summary = .lid
      { applied := sumZones s.panel Zone.applied, allowance := s.effective, stage := s.supply.stage
        faults := zones.filter fun z => s.supply.results[z].faulty }) ∧
    (s.sys.role = .bay → s.pins.present = true → ∀ x : PackSample, x = s.bay.sample → b.summary = .bay
      { state := s.bay.state, pathClosed := s.bay.path, charge := s.bay.charge, lever := s.pins.lever
        voltage := if x.voltage < 11500 then .low else if x.voltage < 15500 then .mid else .high
        temperature := if x.temperature < 45 then .normal else if x.temperature < 70 then .warm else .hot
        current := min (x.current / 10) 255 }) ∧
    (s.sys.role = .bay → s.pins.present = false → b.summary = .bay
      { state := s.bay.state, pathClosed := s.bay.path, charge := 0, voltage := .low, temperature := .normal
        lever := s.pins.lever, current := 0 }))

/-- Test 3 of R171 refreshes the sender's peer entry and no other (`heard`), and the blocks take the end of a silence
with it (`hears`): a sender that was not silent leaves nothing to take, the end of station 0's silence makes the
attention test (R190), after a LID whose image came from there has recomputed its targets (R72), and a BASE with its
slot IDLE takes the flag into the bay's entry, with one recomputation and one version (R6, R7, R12, R179, R180). A note
that parts do not consume has that effect alone (R184). The acceptance check of a note that is no BEACON, by the table
of R183 kind by kind and the reasons of R184 in their order: an unknown sender, a role or a number that may not send
the kind, and a ROSTER with a lower BASE present. `admits` says that the tests 2, 4 and 6 of R171 let a note through.
Tests 2, 4 and 6 for every note that parts consume: from this station's own number it changes nothing, for another
station it is heard and no more, and one that the acceptance check does not admit is captured and reaches no block
(R184, R185). A station that hears no note takes none. The order in which the blocks take the end of a silence is the
model's (log entry 50). That the capture's time is the clock as it stands, also past the 4294967295 of R185, is the
model's choice (log entry 61). -/
def Obligations.HeardNotesAndNotesTurnedAway : Prop :=
  (∀ (s : State) (k : Station), s.awake = true → k ≠ s.sys.station →
    (∀ kind tgt, notConsumed kind = true → exec (.noteNotConsumed kind k tgt) s = .next (s.hears k)) ∧
    (k ≠ 0 ∨ (s.peer k).silent = false →
      s.heard k = s.setPeer k { s.peer k with seen := true, time := 0, silent := false }) ∧
    ((s.peer k).silent = false ∨ k = 0 → s.hears k = s.heard k) ∧
    (k = 0 → (s.peer k).silent = true → ∀ u : State,
      u = (s.setPeer k { s.peer k with seen := true, time := 0, silent := false }).relight k →
      MakesAttentionTest u (s.heard k) ∧ ((∀ i, s.image = some i → i.sender ≠ k) →
        u = s.setPeer k { s.peer k with seen := true, time := 0, silent := false })) ∧
    (∀ g : State, g = s.heard k ∨ g = s.hears k →
      g.peer k = { s.peer k with seen := true, time := 0, silent := false } ∧
      (∀ j, j ≠ k → g.peer j = s.peer j) ∧ (∀ c, s.hasCond c = true → g.hasCond c = true) ∧
      g.sys = s.sys ∧ g.pins = s.pins ∧ g.config = s.config ∧ g.image = s.image ∧ g.bay = s.bay ∧
      g.coord = s.coord ∧ g.flash = s.flash ∧ g.shock.state = s.shock.state) ∧
    (k ≠ 0 → (s.peer k).silent = true → s.rosterActive = true → s.roster.slot = none →
      (∃ e ∈ s.roster.record.entries, e.station = k ∧ e.silent = true) → ∀ r,
      r = recomputed s.config.reserve (mapEntry s.roster.record k fun e => { e with silent := false }) →
      (s.hears k).roster.record.entries = r.entries ∧ (s.hears k).roster.record.allowance = r.allowance ∧
      (s.publishing = true → (s.hears k).roster.record.version = countUp s.roster.record.version))) ∧
  (∀ (s : State) (kind : Kind) (k : Station),
    (∀ roles : List Role, roles = (match kind with
        | .fall | .impact | .settled | .reply | .storeDone | .seg | .streamEnd | .attention => [.base, .lid, .bay]
        | .lost | .fault | .taken | .drained | .gone | .releaseAsk => [.bay]
        | .calm | .roster | .letGo | .releaseNo | .releaseWait => [.base]
        | .beacon => [.base, .lid, .bay, .console]
        | .ask | .setLevel | .releaseBay | .testStrings | .resetStation | .attentionResume | .setMask | .readLog
        | .stopStream | .collect | .eraseRegion | .protectV | .protectNv | .clearNvAll | .lockNv | .writeConfig
        | .checkStore => [.console]) →
      ((s.peer k).role = none → s.violation kind k = some .unknownSender) ∧
      (∀ r, (s.peer k).role = some r →
        (r ∉ roles ∨ roles = [.console] ∧ k ≠ 0 → s.violation kind k = some .roleMismatch) ∧
        (r ∈ roles → (roles = [.console] → k = 0) → ∀ clash : Prop,
          (clash ↔ kind = .roster ∧ ∃ j, j < k ∧ (s.peer j).role = some .base ∧ (s.peer j).silent = false) →
          (clash → s.violation kind k = some .roleClash) ∧ (¬ clash → s.violation kind k = none)))) ∧
    (∀ tgt, s.admits kind k tgt = true ↔ s.awake = true ∧ k ≠ s.sys.station ∧
      (tgt = .all ∨ tgt = .station s.sys.station) ∧ (s.heard k).violation kind k = none)) ∧
  (∀ (c : Instr) (kind : Kind) (k : Station) (tgt : Target) (s : State), noteOf c = some (kind, k, tgt) →
    (s.awake = false ∨ k = s.sys.station → exec c s = .next s) ∧
    (s.awake = true → k ≠ s.sys.station →
      (tgt ≠ .all ∧ tgt ≠ .station s.sys.station → exec c s = .next (s.hears k)) ∧
      (tgt = .all ∨ tgt = .station s.sys.station → ∀ reason, (s.heard k).violation kind k = some reason →
        ∀ g : State, g = s.hears k →
        ∃ t, exec c s = .next t ∧ TellsAndRecords { g with link := t.link } t ∧
          (g.link.capture = none → t.hasCond .acceptViolation = true ∧
            t.link = { g.link with
              queue := t.link.queue
              violations := 1
              capture := some
                { reason := reason, sender := k, kind := kind, target := tgt,
                  roleHeld := (s.peer k).role, time := s.sys.clock } }) ∧
          (g.link.capture ≠ none → t = { g with link := { g.link with
              violations := if s.link.violations ≥ 255 then s.link.violations else s.link.violations + 1
              overflow := s.link.overflow || decide (s.link.violations ≥ 255) } }))))

/-- A BEACON for this station is written into its sender's peer entry, whole (R179); one whose role its station number
cannot carry is captured and not written. That of the console does no more than its note being heard, which makes the
attention test at the end of a silence (R190), unless a DEFERRED BASE takes it. The beacon of a lower-numbered BASE
puts a BASE into DEFERRED, with its roster, slot and wait list emptied and its coordinator CALM (R16, R182). The beacon
of a bay at a BASE that is not DEFERRED, its slot IDLE: a bay without an entry is entered where there is room and a
pack (R3), and an entry takes what the beacon reports by the table of R4, with one recomputation where that, or the end
of its sender's silence, is a roster change trigger (R6, R7, R180; that the flag comes first is the model's reading,
log entry 50). The version advances, and a ROSTER goes out, exactly where a field of the record changes (R12, R14; the
publish timer, log entry 51). That the entry to DEFERRED leaves the version as it was is the model's choice (log entry
87). -/
def Obligations.BeaconsAreWrittenAndDefer : Prop :=
  (∀ (s : State) (k : Station) (tgt : Target) (b : Beacon), s.awake = true → k ≠ s.sys.station →
    tgt = .all ∨ tgt = .station s.sys.station →
    ∃ t, exec (.beacon k tgt b) s = .next t ∧ (∀ j, j ≠ k → t.peer j = s.peer j) ∧
      t.sys = s.sys ∧ t.pins = s.pins ∧ t.config = s.config ∧ t.flash = s.flash ∧ t.image = s.image ∧
      t.bay = s.bay ∧ t.shock.state = s.shock.state ∧
      (beaconMismatch k b.summary.role = false →
        t.peer k = { seen := true, role := some b.summary.role, phase := some b.phase, time := 0, silent := false,
                     shock := some b.shock, count := b.count, summary := some b.summary }) ∧
      (beaconMismatch k b.summary.role = true →
        t.peer k = { s.peer k with seen := true, time := 0, silent := false } ∧ t.link.capture ≠ none) ∧
      (k = 0 → b.summary.role = .console → s.link.deferred = false → t = (s.heard k).setPeer k (t.peer k)) ∧
      (beaconMismatch k b.summary.role = false → s.sys.role = .base → b.summary.role = .base → k < s.sys.station →
        t.link.deferred = true ∧
        (s.link.deferred = false → t.roster.record.entries = [] ∧ t.roster.record.leaving = none ∧
          t.roster.record.version = s.roster.record.version ∧
          t.roster.slot = none ∧ t.roster.waitList = [] ∧ t.roster.publishTimer = none ∧ t.coord = {}))) ∧
  (∀ (s : State) (k : Station) (tgt : Target) (b : Beacon) (q : BaySummary), s.rosterActive = true →
    k ≠ s.sys.station → k ≠ 0 → tgt = .all ∨ tgt = .station s.sys.station → b.summary = .bay q →
    s.roster.slot = none → ∃ t, exec (.beacon k tgt b) s = .next t ∧ t.roster.slot = none ∧ PublishesChange s t ∧
      (rosterEntry s.roster.record k = none →
        (q.state = .empty → t.roster = s.roster) ∧
        (q.state ≠ .empty → 3 ≤ s.roster.record.entries.length →
          t.roster = s.roster ∧ t.hasCond .bayExcess = true) ∧
        (q.state ≠ .empty → s.roster.record.entries.length < 3 → ∀ st : EntryState,
          st = (match q.state with
            | .empty | .seated => .seated
            | .ready => .ready
            | .carrying | .releasing => .carrying
            | .freed => .freed
            | .lost => .lost
            | .faulted => .faulted) → ∀ e : Entry,
          e = { station := k, weight := 0, charge := q.charge, voltage := q.voltage, temperature := q.temperature,
                silent := false, held := b.shock != .calm
                state := if q.temperature = .hot ∧ (st = .ready ∨ st = .carrying) then .faulted else st } →
          t.roster.record.entries = (recomputed s.config.reserve
            { s.roster.record with entries := insertEntry e s.roster.record.entries }).entries)) ∧
      (∀ r : Roster, r = s.roster.record → ∀ e, rosterEntry r k = some e →
        (q.state = .empty → t.roster.record.entries = (recomputed s.config.reserve (removeEntry r k)).entries) ∧
        (q.state ≠ .empty → ∀ st : EntryState,
          st = (match e.state, q.state with
            | .releasing, .lost => .lost
            | .releasing, .faulted => .faulted
            | .releasing, _ => .releasing
            | _, .freed => .freed
            | _, .lost => .lost
            | _, .faulted => .faulted
            | _, .seated => .seated
            | .carrying, .ready => .carrying
            | _, .ready => .ready
            | _, .carrying => .carrying
            | .ready, .releasing => .ready
            | _, _ => .carrying) → ∀ x : Entry,
          x = { station := k, weight := e.weight, charge := q.charge, voltage := q.voltage
                temperature := q.temperature, silent := false, held := b.shock != .calm
                state := if q.temperature = .hot ∧ (st = .ready ∨ st = .carrying ∨ st = .releasing) then .faulted
                  else st } →
          (x.state ≠ e.state ∨ x.voltage ≠ e.voltage ∨ x.temperature ≠ e.temperature ∨
              ¬ (e.charge < s.config.reserve ↔ x.charge < s.config.reserve) ∨
              (∃ y ∈ r.entries, y.station = k ∧ y.silent = true) →
            t.roster.record.entries = (recomputed s.config.reserve (mapEntry r k fun _ => x)).entries) ∧
          (x.state = e.state → x.voltage = e.voltage → x.temperature = e.temperature →
              (e.charge < s.config.reserve ↔ x.charge < s.config.reserve) →
              (∀ y ∈ r.entries, y.station = k → y.silent = false) →
            t.roster.record.entries = (mapEntry r k fun _ => x).entries))))

/-- A peer that falls silent is marked so, and no other peer changes (R180). A BASE that is not DEFERRED, its slot IDLE
and its episode state CALM, copies the silence into the bay's entry and recomputes (R6, R7); a roster that shows it
already stands. A DEFERRED BASE whose lower-numbered BASEs are then all silent leaves DEFERRED (R182), and a LID or BAY
that hears no BASE any more sets BASE_SILENT. A bay whose BASE falls silent takes its waiting ask as refused (R58), and
an open coordinator marks a participant without a result DROPPED (R125); one in CLOSING that then waits for none closes
the episode with ALL_SETTLED, and CALM names that participant as unsettled (R126 to R128). A CARRYING taker of a
handover that falls silent leaves the takers and their confirmations and becomes a lost taker, its entry being
recomputed as any other: while LET-GO has been sent or cover remains the handover continues, and otherwise it is
aborted with COVER_LOST (R8, R36, R37). The order of the parts of one such event is the model's (log entry 50). -/
def Obligations.SilenceIsMarkedAndTaken : Prop :=
  ∀ (s : State) (k : Station), s.awake = true → (s.peer k).silent = false →
    ∃ t, exec (.peerSilent k) s = .next t ∧
      (t.peer k).silent = true ∧ (t.peer k).role = (s.peer k).role ∧ (t.peer k).summary = (s.peer k).summary ∧
      (∀ j, j ≠ k → t.peer j = s.peer j) ∧
      t.sys = s.sys ∧ t.pins = s.pins ∧ t.config = s.config ∧ t.flash = s.flash ∧ t.image = s.image ∧
      (s.rosterActive = true → s.roster.slot = none → s.coord.state = .calm →
        ((∃ e ∈ s.roster.record.entries, e.station = k ∧ e.silent = false) → ∀ r : Roster,
          r = recomputed s.config.reserve (mapEntry s.roster.record k fun e => { e with silent := true }) →
          t.roster.record.entries = r.entries ∧ t.roster.record.allowance = r.allowance ∧
          (s.publishing = true → t.roster.record.version = countUp s.roster.record.version)) ∧
        ((∀ e ∈ s.roster.record.entries, e.station = k → e.silent = true) → t.roster = s.roster)) ∧
      (s.rosterActive = true → s.coord.state = .calm ∨ s.coord.state = .opened → RosterLaw s.roster → ∀ sl,
        s.roster.slot = some sl → k ∈ sl.takers → sl.leaving ≠ k →
        (∃ e, rosterEntry s.roster.record k = some e ∧ e.state = .carrying ∧ e.silent = false) → ∀ r : Roster,
        r = mapEntry s.roster.record k (fun e => { e with silent := true }) →
        (sl.letGoSent = true ∨ coverFor s.config.reserve r sl.leaving = true →
          t.roster.record.entries = (recomputed s.config.reserve (mapEntry r sl.leaving heldLeaving)).entries ∧
          ∃ x, t.roster.slot = some x ∧ x.leaving = sl.leaving ∧ k ∉ x.takers ∧ k ∉ x.confirmed ∧ k ∈ x.lostTakers) ∧
        (sl.letGoSent = false → coverFor s.config.reserve r sl.leaving = false → s.roster.waitList = [] →
          t.roster.slot = none ∧ t.roster.handoverTimer = none ∧ t.roster.record.leaving = none ∧
          t.hasCond .swapAbort = true ∧
          (s.running = true → s.link.queue.length ≤ 2 →
            { target := .station sl.leaving, body := .releaseNo .coverLost } ∈ t.link.queue) ∧
          ∃ x : SwapRecord, Records s t (.swap x) ∧ x.outcome = .coverLost ∧ x.leaving = sl.leaving ∧
            x.origin = sl.origin ∧ x.confirmed = [] ∧ x.evidence = .none ∧ k ∈ x.lostTakers)) ∧
      (s.rosterActive = true → s.coord.state = .opened → t.coord = { s.coord with
        participants := s.coord.participants.map fun p =>
          if p.station = k ∧ p.result = none then { p with dropped := true } else p }) ∧
      (s.rosterActive = true → s.coord.state = .closing → s.lineRests = true →
        (∀ p ∈ s.coord.participants, p.mark = .settled ∨ p.dropped = true ∨ p.station = k ∧ p.result = none) →
        t.coord = {} ∧ t.shock.state = .calm ∧ t.shock.episode = none ∧ t.hasCond .episodeEnd = true ∧
        (s.running = true → s.roster.slot = none → s.link.queue.length ≤ 3 →
          ∃ n ∈ t.link.queue, n.target = .all ∧ ∃ settled unsettled,
            n.body = .calm s.coord.count .allSettled settled unsettled ∧
            ((∃ p ∈ s.coord.participants, p.station = k ∧ p.result = none) → k ∈ unsettled))) ∧
      (s.sys.role = .base → s.link.deferred = true →
        (∀ j, j < s.sys.station → j ≠ k → s.present j .base = false) → t.link.deferred = false) ∧
      (s.sys.role ≠ .base → (s.peer k).role = some .base → (∀ j, j ≠ k → s.present j .base = false) →
        t.hasCond .baseSilent = true) ∧
      (s.sys.role = .bay → ∀ p i, s.bay.ask = .waiting p → s.image = some i → i.sender = k →
        t.bay = { s.bay with ask := .none, answer := none, refused := some 2000 })

/-! ### The roster and the handover -/

/-- The test of eligibility and the cover check. The record that a recomputation takes, `held`, is in
`AllocationHoldsTheRosterLaw`. -/
def Obligations.EligibilityAndCover : Prop :=
  (∀ (reserve : Nat) (e : Entry), eligible reserve e = true ↔
    (e.state = .ready ∨ e.state = .carrying) ∧ reserve ≤ e.charge ∧ e.temperature ≠ .hot ∧
      (e.silent = false ∨ e.state = .carrying)) ∧
  (∀ (reserve : Nat) (r : Roster) (k : Station), coverFor reserve r k = true ↔
    r.adapter = true ∨ ∃ e ∈ r.entries, e.station ≠ k ∧ eligible reserve e = true) ∧
  Configuration.defaults.reserve = 5 ∧
  (∀ s : State, s.recompute.roster.record = recomputed s.config.reserve s.roster.held)

/-- The law of the roster (R9 to R11): after an allocation the adapter weight and the bay weights sum to 16 while any
entry is READY or CARRYING or the adapter is present, and to 0 otherwise; an entry with weight is CARRYING; an entry in
another state keeps it, with weight 0; and the allowance is one of the table of R11. The shares are those of R9: each
eligible entry gets 16 div n, and one more while the remainder lasts in ascending order; where none is eligible, the
READY and CARRYING entries share so; every other entry gets 0. A recomputation that gives the load by last resort to a
set with a charge below the reserve sets LOW_RESERVE, and no other does (R9, step 3); the leaving entry of a BUSY slot
is no part of it (R29). A recomputation takes the record as `held` has it: while the slot is BUSY the leaving entry is
RELEASING with weight 0 (R29), where a beacon has moved it to READY or CARRYING too; one in another state keeps it,
with weight 0 (the model's reading, log entry 67). -/
def Obligations.AllocationHoldsTheRosterLaw : Prop :=
  (∀ (reserve : Nat) (r : Roster), ∀ t : Roster, t = recomputed reserve r →
    rosterAdapterWeight t + (t.entries.map Entry.weight).sum =
      (if r.adapter = true ∨ (∃ e ∈ r.entries, e.state = .ready ∨ e.state = .carrying) then 16 else 0) ∧
    (∀ e ∈ t.entries, e.weight ≠ 0 → e.state = .carrying) ∧
    (∀ e ∈ t.entries, e.state = .carrying → e.weight ≠ 0) ∧
    t.entries.map Entry.station = r.entries.map Entry.station ∧
    (∀ k st, st ≠ .ready → st ≠ .carrying → stateIs t k st = stateIs r k st) ∧
    t.adapter = r.adapter ∧ t.version = r.version ∧ t.leaving = r.leaving ∧
    (r.entries.Pairwise (fun a b => a.station < b.station) → ∀ (shares : Entry → Bool) (n : Nat),
      (∀ e, shares e = if ∃ x ∈ r.entries, eligible reserve x = true then eligible reserve e
        else decide (e.state = .ready ∨ e.state = .carrying)) →
      n = r.entries.countP shares → ∀ e ∈ r.entries, ∀ w,
      w = (if r.adapter = false ∧ shares e = true then
          16 / n + (if (r.entries.countP fun x => shares x && decide (x.station < e.station)) < 16 % n then 1 else 0)
        else 0) →
      { e with weight := w, state := if e.state = .ready ∨ e.state = .carrying then (if w = 0 then .ready else .carrying)
          else e.state } ∈ t.entries) ∧
    (r.adapter = true → t.allowance = 1500) ∧
    (r.adapter = false → r.entries.length ≤ 3 → ∀ n, n = (t.entries.countP fun e => e.weight != 0) →
      ∀ base, base = [0, 500, 900, 1200].getD n 0 →
        t.allowance = if ∃ e ∈ t.entries, e.weight ≠ 0 ∧ e.temperature = .warm then base * 3 / 4 else base)) ∧
  (∀ s : State, ∀ low : Prop,
    (low ↔ s.roster.record.adapter = false ∧
      (∀ e ∈ s.roster.record.entries, eligible s.config.reserve e = true → ∃ sl, s.roster.slot = some sl ∧ e.station = sl.leaving) ∧
      ∃ e ∈ s.roster.record.entries, (∀ sl, s.roster.slot = some sl → e.station ≠ sl.leaving) ∧
        (e.state = .ready ∨ e.state = .carrying) ∧ e.charge < s.config.reserve) →
    (low → s.recompute.hasCond .lowReserve = true ∧ Tells { s with roster := s.recompute.roster } s.recompute) ∧
    (¬ low → s.recompute = { s with roster := s.recompute.roster })) ∧
  (∀ u : RosterUnit, (u.slot = none → u.held = u.record) ∧
    (∀ sl, u.slot = some sl → u.held = mapEntry u.record sl.leaving heldLeaving)) ∧
  (∀ e : Entry, heldLeaving e = { e with state :=
    if e.state = .ready ∨ e.state = .carrying then .releasing else e.state }) ∧
  (∀ (s : State) (sl : Slot), s.roster.slot = some sl → ∀ e ∈ s.recompute.roster.record.entries,
    e.station = sl.leaving → e.weight = 0 ∧ e.state ≠ .ready ∧ e.state ≠ .carrying)

/-- LOST, FAULT and GONE move the entry of their sender to LOST, FAULTED and FREED, and TAKEN leaves its state; with
the slot IDLE each is followed by the recomputation of a trigger (R5, R7). The end of the sender's silence is copied
into the entry before, as `heard` has it, and one recomputation stands for both (R6, R7, R180). The version advances,
and a ROSTER goes out, exactly where the event changes a field of the record (R12, R14). Without an entry, at a BASE
that is DEFERRED and at another role, they are heard and no more. Where the sender is the leaving station and none
waits, GONE completes the handover (R34); LOST completes it after LET-GO and is YANKED before (R38); FAULT aborts it
before LET-GO and leaves it running after (R39): the slot is IDLE, and the SWAP record of R45 is handed over. That the
silence comes first is the model's reading (log entry 50), and that the publish timer restarts whether or not the
ROSTER finds room is its choice (log entry 51). -/
def Obligations.BayNotesMoveTheEntry : Prop :=
  ∀ (s : State) (k : Station) (tgt : Target) (c : Instr) (kind : Kind),
    (c = .lost k tgt ∧ kind = .lost ∨ (∃ cause, c = .fault k tgt cause ∧ kind = .fault) ∨
      c = .gone k tgt ∧ kind = .gone ∨ ∃ v, c = .taken k tgt v ∧ kind = .taken) →
    s.admits kind k tgt = true → ∀ h : State, h = s.heard k →
    (h.rosterActive = false ∨ rosterEntry h.roster.record k = none → exec c s = .next (s.hears k)) ∧
    (h.rosterActive = true → rosterEntry h.roster.record k ≠ none → ∀ heard r : Roster,
      heard = mapEntry h.roster.record k (fun e => { e with silent := false }) →
      r = (if kind = .lost then noteState heard k .lost else if kind = .fault then noteState heard k .faulted
           else if kind = .gone then noteState heard k .freed else heard) →
      ∃ t, exec c s = .next t ∧
      (kind = .lost → stateIs t.roster.record k .lost = true) ∧
      (kind = .fault → stateIs t.roster.record k .faulted = true) ∧
      (kind = .gone → stateIs t.roster.record k .freed = true) ∧
      PublishesChange h t ∧
      (h.roster.slot = none → t.roster.record.entries = (recomputed h.config.reserve r).entries ∧
        t.roster.record.allowance = (recomputed h.config.reserve r).allowance) ∧
      (∀ sl, h.roster.slot = some sl → sl.leaving = k → h.roster.waitList = [] → ∀ (ends : Bool) (x : SwapRecord),
        (kind = .gone ∧ ends = true ∧ x = { x with outcome := .complete, evidence := .gone } ∨
          kind = .lost ∧ ends = true ∧ sl.letGoSent = true ∧ x = { x with outcome := .complete, evidence := .lost } ∨
          kind = .lost ∧ ends = true ∧ sl.letGoSent = false ∧ x = { x with outcome := .yanked, evidence := .none } ∨
          kind = .fault ∧ ends = false ∧ sl.letGoSent = false ∧
            x = { x with outcome := .faulted, evidence := .none }) →
        x = { x with
          leaving := k, origin := sl.origin, lostTakers := sl.lostTakers, drained := sl.drained
          takers := if ends then sl.takers else sl.takers.filter fun j => !sl.confirmed.contains j
          confirmed := if ends then sl.confirmed else []
          elapsed := min (h.sys.clock - sl.startTime) 65535, suspensions := sl.suspensions } →
        t.roster.slot = none ∧ t.roster.handoverTimer = none ∧ t.roster.record.leaving = none ∧
        t.roster.record.entries = (recomputed h.config.reserve r).entries ∧
        (ends = false → t.hasCond .swapAbort = true) ∧
        (h.store.engine ≠ .idle → (∀ q cause, h.store.engine ≠ .erase q cause) → ordinaryRecords h.store.queue < 6 →
          h.store.queue.length < 8 → ∃ e ∈ t.store.queue, ∃ v, e.content = .swap { x with version := v })) ∧
      (∀ sl, h.roster.slot = some sl → sl.leaving = k → kind = .fault → sl.letGoSent = true →
        ∃ y, t.roster.slot = some y ∧ y.leaving = k ∧ y.letGoSent = true) ∧
      t = { h with roster := t.roster, link := { h.link with queue := t.link.queue }, console := t.console,
                   store := t.store, shock := t.shock } ∧ t.shock.state = h.shock.state)

/-- TAKEN, and a beacon that shows the sender CARRYING with its path closed, confirms a taker of the handover, where
all its takers are CARRYING and the allocation is up to date (R30). A taker whose pack is lost, faulted or gone leaves
the takers and their confirmations and becomes a lost taker; where that leaves no cover before LET-GO, the handover is
aborted with COVER_LOST (R37). The end of a silence is copied into the entry before the note (R6, R180; the model's
reading, log entry 50). A taker's departure by its silence is in `SilenceIsMarkedAndTaken`, that by a settled FAULT in
`SettledNotesCloseTheEpisode` and `FallsInterruptAnEpisode`. -/
def Obligations.TakersAreConfirmed : Prop :=
  (∀ (s : State) (k : Station) (tgt : Target) (sl : Slot), ∀ h : State, h = s.heard k → h.rosterActive = true →
    RosterLaw h.roster → h.roster.slot = some sl → k ∈ sl.takers →
    ∀ r0 : Roster, r0 = mapEntry h.roster.record k (fun e => { e with silent := false }) → ∀ (c : Instr) (r : Roster),
    ((∃ v, c = .taken k tgt v) ∧ s.admits .taken k tgt = true ∧ r = r0 ∨
      (∃ b q, c = .beacon k tgt b ∧ k ≠ s.sys.station ∧ k ≠ 0 ∧ (tgt = .all ∨ tgt = .station s.sys.station) ∧
        b.summary = .bay q ∧ q.state = .carrying ∧ q.pathClosed = true ∧ q.temperature ≠ .hot ∧ sl.leaving ≠ k ∧
        ∃ e, rosterEntry r0 k = some e ∧ e.state = .carrying ∧
          r = mapEntry r0 k fun _ => { e with
            charge := q.charge, voltage := q.voltage, temperature := q.temperature, held := b.shock != .calm })) →
    (∀ j ∈ sl.takers, stateIs r j .carrying = true) → stateIs r sl.leaving .ready = false →
    stateIs r sl.leaving .carrying = false → recomputed h.config.reserve r = r →
    ∃ t x, exec c s = .next t ∧ t.roster.slot = some x ∧ k ∈ x.confirmed ∧
      (∀ j ∈ sl.confirmed, j ∈ sl.takers → j ∈ x.confirmed) ∧ x.leaving = sl.leaving ∧
      t.roster.record.entries = r.entries ∧ (r = h.roster.record → t.roster.record = h.roster.record)) ∧
  (∀ (s : State) (k : Station) (tgt : Target) (c : Instr) (kind : Kind) (st : EntryState),
    (c = .lost k tgt ∧ kind = .lost ∧ st = .lost ∨ (∃ cause, c = .fault k tgt cause ∧ kind = .fault ∧ st = .faulted) ∨
      c = .gone k tgt ∧ kind = .gone ∧ st = .freed) → s.admits kind k tgt = true →
    ∀ h : State, h = s.heard k → h.rosterActive = true → rosterEntry h.roster.record k ≠ none →
    ∀ sl, h.roster.slot = some sl → k ∈ sl.takers → sl.leaving ≠ k → ∀ r : Roster,
    r = noteState (mapEntry h.roster.record k fun e => { e with silent := false }) k st → ∃ t, exec c s = .next t ∧
      (sl.letGoSent = true ∨ coverFor h.config.reserve r sl.leaving = true → ∃ x, t.roster.slot = some x ∧
        x.leaving = sl.leaving ∧ k ∉ x.takers ∧ k ∉ x.confirmed ∧ k ∈ x.lostTakers) ∧
      (sl.letGoSent = false → coverFor h.config.reserve r sl.leaving = false → h.roster.waitList = [] →
        t.roster.slot = none ∧ t.roster.record.leaving = none ∧ t.hasCond .swapAbort = true ∧
        (h.store.engine ≠ .idle → (∀ q cause, h.store.engine ≠ .erase q cause) → ordinaryRecords h.store.queue < 6 →
          h.store.queue.length < 8 → ∃ e ∈ t.store.queue, ∃ x : SwapRecord,
            e.content = .swap { x with outcome := .coverLost, leaving := sl.leaving } ∧ k ∈ x.lostTakers)))

/-- DRAINED at the slot. The test of R32 that follows every event of the Roster Unit is `letGoTest`
(`LetGoIsSentWhenBothEndsAreMet`). Where the note ends a silence that the record still shows (`lags`), the record takes
that first, in the same event (R6, R180). -/
def Obligations.DrainedMarksTheSlot : Prop :=
  ∀ (s : State) (k : Station) (tgt : Target) (current : Nat), s.admits .drained k tgt = true →
    ∀ h : State, h = s.heard k →
    (h.rosterActive = true → ∀ sl, h.roster.slot = some sl →
      (sl.leaving = k → h.lags k = false → exec (.drained k tgt current) s =
        .next ({ h with roster := { h.roster with slot := some { sl with drained := true } } } : State).letGoTest) ∧
      (sl.leaving = k → h.lags k = true →
        (∀ j ∈ sl.takers, stateIs h.roster.record j .carrying = true) →
        ∃ t x, exec (.drained k tgt current) s = .next t ∧ t.roster.slot = some x ∧ x.leaving = k ∧
          x.drained = true) ∧
      (sl.leaving ≠ k → h.lags k = false → exec (.drained k tgt current) s = .next h.letGoTest) ∧
      (sl.leaving ≠ k → h.lags k = true →
        (∀ j ∈ sl.takers, stateIs h.roster.record j .carrying = true) →
        exec (.drained k tgt current) s = .next (h.rosterSilence k))) ∧
    (h.rosterActive = true → h.roster.slot = none → exec (.drained k tgt current) s = .next (h.rosterSilence k)) ∧
    (h.rosterActive = false → exec (.drained k tgt current) s = .next (s.hears k)) ∧
    (h.lags k = false → h.rosterSilence k = h)

/-- The test of R32: with both ends met in SHIFTING, LET-GO is handed over, LET-GO sent becomes yes, the phase FREEING
and the handover timer 3000 ms; in every other case, SUSPENDED among them, nothing happens. -/
def Obligations.LetGoIsSentWhenBothEndsAreMet : Prop :=
  ∀ s : State,
    (s.roster.slot = none → s.letGoTest = s) ∧
    (∀ sl, s.roster.slot = some sl →
      (sl.phase = .shifting ∧ sl.drained = true ∧ (∀ k ∈ sl.takers, k ∈ sl.confirmed) →
        s.letGoTest.roster = { s.roster with
          slot := some { sl with letGoSent := true, phase := .freeing }, handoverTimer := some 3000 } ∧
        (s.takesKind .letGo = true → roomOrdinary s.link.queue = true → s.letGoTest.link.queue =
          s.link.queue ++ [{ target := .station sl.leaving, body := .letGo .handover }]) ∧
        Tells { s with roster := s.letGoTest.roster } s.letGoTest) ∧
      (¬ (sl.phase = .shifting ∧ sl.drained = true ∧ ∀ k ∈ sl.takers, k ∈ sl.confirmed) → s.letGoTest = s))

/-- RELEASE-ASK through the checks of R25: UNKNOWN, HELD, a release without handover, and a repeat that is ignored; a
BASE not in RUNNING, or DEFERRED, takes none (R44). That of a CARRYING bay that finds the slot IDLE is refused without
cover, and starts the handover with it (R27): the allocation and the allowance are those of the record with the asking
entry RELEASING at weight 0, and the takers the entries, but for that one, which this recomputation moves from READY to
CARRYING (R29). Where the note ends a silence that the record still shows (`lags`), the record takes that first, with
its recomputation (`u`), and the ask meets the roster that it leaves (R6, R7, R180). That one version stands for both
is the model's reading (log entry 50); so is the version the SWAP record carries, the next one where the event changes
the record (log entry 15); and the fields of a handover in the SWAP record of a release without one are the model's
choice (log entry 52). That the publish timer restarts at the ROSTER of a handover's start, whether or not the queue
takes it, is the model's choice (log entry 51). -/
def Obligations.ReleaseAsksPassTheirChecks : Prop :=
  (∀ (s : State) (k : Station) (tgt : Target) (origin : Origin), s.admits .releaseAsk k tgt = true →
    ∀ h : State, h = s.heard k →
    (h.publishing = false → exec (.releaseAsk k tgt origin) s = .next (s.hears k)) ∧
    (h.publishing = true → ∀ u : State, u = h.takeSilence h.roster.record k → (h.lags k = false → u = h) ∧
      ∀ answer : Nat → State → State,
      ((rosterEntry u.roster.record k = none ∨
            (∃ e, rosterEntry u.roster.record k = some e ∧ (e.state = .freed ∨ e.state = .lost))) ∧
          (∀ v t, answer v t = t.sendTo k (.releaseNo .unknown)) ∨
        ∃ e, rosterEntry u.roster.record k = some e ∧ e.state ≠ .freed ∧ e.state ≠ .lost ∧
          (h.coord.state ≠ .calm ∧ (∀ v t, answer v t = t.sendTo k (.releaseNo .held)) ∨
            h.coord.state = .calm ∧ (e.state = .seated ∨ e.state = .ready ∨ e.state = .faulted) ∧
              (∀ v t, answer v t = (t.sendTo k (.letGo .noHandover)).hand
                (.swap { outcome := .noHandover, leaving := k, origin := origin, takers := [], confirmed := [],
                         lostTakers := [], drained := false, evidence := .none, elapsed := 0, suspensions := 0,
                         version := v })) ∨
            h.coord.state = .calm ∧ (e.state = .carrying ∨ e.state = .releasing) ∧
              ((∃ sl, u.roster.slot = some sl ∧ sl.leaving = k) ∨ (∃ w ∈ u.roster.waitList, w.station = k)) ∧
              (∀ v t, answer v t = t) ∨
            h.coord.state = .calm ∧ e.state = .carrying ∧ u.roster.slot = none ∧
              (∀ w ∈ u.roster.waitList, w.station ≠ k) ∧
              coverFor h.config.reserve u.roster.record k = false ∧
              (∀ v t, answer v t = t.sendTo k (.releaseNo .noCover)))) →
      (h.lags k = false →
        exec (.releaseAsk k tgt origin) s = .next (answer h.roster.record.version h).letGoTest) ∧
      (h.lags k = true → exec (.releaseAsk k tgt origin) s = .next (h.rosterEvent fun before t =>
        answer (countUp before.version) (t.takeSilence before k))))) ∧
  (∀ (s : State) (k : Station) (tgt : Target) (origin : Origin), s.admits .releaseAsk k tgt = true →
    ∀ h : State, h = s.heard k → h.publishing = true → h.roster.slot = none → ∀ u : State,
    u = h.takeSilence h.roster.record k → ∀ e, rosterEntry u.roster.record k = some e →
    e.state = .carrying → h.coord.state = .calm →
    (∀ w ∈ h.roster.waitList, w.station ≠ k) → coverFor h.config.reserve u.roster.record k = true →
      ∃ t sl, exec (.releaseAsk k tgt origin) s = .next t ∧ t.roster.slot = some sl ∧
        (∀ r after : Roster, r = { mapEntry u.roster.record k (fun x => { x with state := .releasing, weight := 0 }) with
            leaving := some k } → after = recomputed h.config.reserve r →
          t.roster.record.entries = after.entries ∧ t.roster.record.allowance = after.allowance ∧
          sl = { leaving := k, origin := origin, confirmed := [], lostTakers := [], drained := false
                 takers := stations.filter fun j =>
                   decide (j ≠ k) && stateIs r j .ready && stateIs after j .carrying
                 letGoSent := false, phase := .shifting, startTime := h.sys.clock, suspensions := 0 }) ∧
        t.roster.record.load = h.pins.load ∧
        t.roster.handoverTimer = some 3000 ∧ t.roster.publishTimer = some 1000 ∧
        t.roster.waitList = h.roster.waitList ∧ t.roster.record.leaving = some k ∧
        t.roster.record.version = countUp h.roster.record.version ∧
        stateIs t.roster.record k .releasing = true ∧
        (∀ x ∈ t.roster.record.entries, x.station = k → x.weight = 0) ∧
        (roomOrdinary u.link.queue = true →
          { target := .all, body := .roster t.roster.record } ∈ t.link.queue) ∧
        t = { h with roster := t.roster, link := { h.link with queue := t.link.queue }, console := t.console,
                     shock := t.shock } ∧ t.shock.state = h.shock.state)

/-- RELEASE-ASK of a CARRYING bay that finds the slot BUSY waits while fewer than 2 wait, and is refused FULL otherwise
(R26). When the slot becomes IDLE, the stations that wait are examined in their order (R35): one that has lost its
entry is answered UNKNOWN, one that no longer carries is released without handover, one without cover is refused
NO_COVER, and one with cover starts the next handover, with the allocation and the takers of R27 and R29, which ends
the search. The end of a sender's silence is taken before its ask, as `u` has it, and copied before its GONE (R6, R180;
the model's reading, log entry 50). The version in the SWAP record of a release without handover is the model's reading
(log entry 15), and its fields of a handover are the model's choice (log entry 52). -/
def Obligations.ReleaseAskOfABusySlotWaits : Prop :=
  (∀ (s : State) (k : Station) (tgt : Target) (origin : Origin), s.admits .releaseAsk k tgt = true →
    ∀ h : State, h = s.heard k → h.publishing = true → ∀ u : State, u = h.takeSilence h.roster.record k →
    ∀ e sl, rosterEntry u.roster.record k = some e →
    e.state = .carrying → h.coord.state = .calm → u.roster.slot = some sl → sl.leaving ≠ k →
    (∀ w ∈ u.roster.waitList, w.station ≠ k) → ∀ answer : State → State,
    (u.roster.waitList.length < 2 ∧ (∀ t, answer t = ({ t with roster := { t.roster with
        waitList := t.roster.waitList ++ [{ station := k, origin := origin }] } } : State).sendTo k
          (.releaseWait (u.roster.waitList.length + 1))) ∨
      2 ≤ u.roster.waitList.length ∧ (∀ t, answer t = t.sendTo k (.releaseNo .full))) →
    (h.lags k = false → exec (.releaseAsk k tgt origin) s = .next (answer h).letGoTest) ∧
    (h.lags k = true → exec (.releaseAsk k tgt origin) s = .next (h.rosterEvent fun before t =>
      answer (t.takeSilence before k))) ∧
    (∀ t : State, (sl.endsMet = false → t.roster.slot = u.roster.slot → t.letGoTest = t) ∧
      ∀ j b, (t.sendTo j b).roster = t.roster ∧ (t.sendTo j b).store = t.store)) ∧
  (∀ (s : State) (before : Roster),
    (s.roster.slot ≠ none ∨ s.coord.state ≠ .calm ∨ s.roster.waitList = [] → s.serveList before = s) ∧
    (s.roster.slot = none → s.coord.state = .calm → ∀ w rest, s.roster.waitList = w :: rest → ∀ u : State,
      u = { s with roster := { s.roster with waitList := rest } } →
      (rosterEntry s.roster.record w.station = none ∨
          (∃ e, rosterEntry s.roster.record w.station = some e ∧ (e.state = .freed ∨ e.state = .lost)) →
        s.serveList before = (u.sendTo w.station (.releaseNo .unknown)).serveList before) ∧
      (∀ e, rosterEntry s.roster.record w.station = some e →
        (e.state = .seated ∨ e.state = .ready ∨ e.state = .faulted → s.serveList before =
          ((u.sendTo w.station (.letGo .noHandover)).hand
            (.swap { outcome := .noHandover, leaving := w.station, origin := w.origin, takers := [], confirmed := [],
                     lostTakers := [], drained := false, evidence := .none, elapsed := 0, suspensions := 0,
                     version := if s.roster.record = before then before.version
                       else countUp before.version })).serveList before) ∧
        (e.state = .carrying → coverFor s.config.reserve s.roster.record w.station = false →
          s.serveList before = (u.sendTo w.station (.releaseNo .noCover)).serveList before) ∧
        (e.state = .carrying → coverFor s.config.reserve s.roster.record w.station = true → ∀ t : State,
          t = s.serveList before → ∀ r : Roster,
          r = { mapEntry s.roster.record w.station (fun x => { x with state := .releasing, weight := 0 }) with
            leaving := some w.station } →
          t.roster.record = recomputed s.config.reserve r ∧
          t.roster.slot = some
            { leaving := w.station, origin := w.origin, confirmed := [], lostTakers := [], drained := false
              takers := stations.filter fun j => decide (j ≠ w.station) && stateIs r j .ready &&
                stateIs (recomputed s.config.reserve r) j .carrying
              letGoSent := false, phase := .shifting, startTime := s.sys.clock, suspensions := 0 } ∧
          t.roster.waitList = rest ∧ t.roster.handoverTimer = some 3000 ∧
          stateIs t.roster.record w.station .releasing = true)))) ∧
  (∀ (s : State) (k : Station) (tgt : Target), s.admits .gone k tgt = true → ∀ h : State, h = s.heard k →
    h.rosterActive = true → rosterEntry h.roster.record k ≠ none → h.coord.state = .calm → ∀ sl,
    h.roster.slot = some sl → sl.leaving = k → ∀ w rest, h.roster.waitList = w :: rest → ∀ r : Roster,
    r = recomputed h.config.reserve (noteState (mapEntry h.roster.record k fun e => { e with silent := false }) k .freed) →
    (∃ e, rosterEntry r w.station = some e ∧ e.state = .carrying) →
    coverFor h.config.reserve r w.station = true →
    ∃ t x, exec (.gone k tgt) s = .next t ∧ t.roster.slot = some x ∧ x.leaving = w.station ∧ x.origin = w.origin ∧
      x.phase = .shifting ∧ t.roster.waitList = rest ∧ t.roster.handoverTimer = some 3000 ∧
      (∀ r' after : Roster,
        r' = mapEntry r w.station (fun x => { x with state := .releasing, weight := 0 }) →
        after = recomputed h.config.reserve r' →
        t.roster.record.entries = after.entries ∧ t.roster.record.allowance = after.allowance ∧
        x.takers = stations.filter fun j =>
          decide (j ≠ w.station) && stateIs r' j .ready && stateIs after j .carrying) ∧
      stateIs t.roster.record k .freed = true ∧ stateIs t.roster.record w.station .releasing = true)

/-- The timers and the line of the BASE. The publish timer's expiry samples the load and hands over a ROSTER, with a
new version only for a new load (R14); the handover timer's expiry aborts in SHIFTING, with a RELEASE-NO and a SWAP
record of TIMEOUT, and repeats LET-GO in FREEING (R23, R33, R36, R45); and a change of the ADAPTER line is a trigger
(R7), whose recomputation the takers of a handover follow: those that it makes READY leave, lost where the adapter is
absent, and those that it makes CARRYING join, with the test of R32 behind it (R29, R37). At an abort and at a change
of the line the version advances, and a ROSTER goes out, exactly where a field of the record changes (R12, R14). A
DEFERRED BASE takes the line into its record alone (the model's reading, log entry 24), and another role not at all.
The reading that comes with the publish timer stands for the load line until the next (the model's choice, log entry
13), the timer restarts whether or not the ROSTER finds room (log entry 51), and the version a SWAP record carries is
the model's reading (log entry 15). -/
def Obligations.TheBaseTakesItsTimersAndItsLine : Prop :=
  ∀ s : State,
    (s.publishing = true → s.roster.publishTimer ≠ none → ∀ load, ∃ t, exec (.publishTimer load) s = .next t ∧
      t.roster = { s.roster with
        publishTimer := some 1000
        record := if s.roster.record.load = load then s.roster.record
          else { s.roster.record with load := load, version := countUp s.roster.record.version } } ∧
      (roomOrdinary s.link.queue = true ∨ (∃ m ∈ s.link.queue, m.kind = .roster) →
        { target := .all, body := .roster t.roster.record } ∈ t.link.queue) ∧
      Tells { s with pins := { s.pins with load := load }, roster := t.roster } t) ∧
    (∀ load, s.publishing = false ∨ s.roster.publishTimer = none →
      exec (.publishTimer load) s = .next { s with pins := { s.pins with load := load } }) ∧
    (s.publishing = true → s.roster.handoverTimer ≠ none → ∀ sl, s.roster.slot = some sl →
      (sl.phase = .freeing → exec .handoverTimer s = .next { s.sendTo sl.leaving (.letGo .handover) with
        roster := { s.roster with handoverTimer := some 3000 } }) ∧
      (sl.phase = .shifting → s.roster.waitList = [] → ∃ t, exec .handoverTimer s = .next t ∧
        t.roster.slot = none ∧ t.roster.handoverTimer = none ∧ t.roster.record.leaving = none ∧
        t.hasCond .swapAbort = true ∧ PublishesChange s t ∧
        (stateIs s.roster.record sl.leaving .releasing = true → (s.peer sl.leaving).bay = none →
          stateIs t.roster.record sl.leaving .releasing = false) ∧
        (s.link.queue.length ≤ 3 → { target := .station sl.leaving, body := .releaseNo .timeout } ∈ t.link.queue) ∧
        ∃ v, Records s t (.swap
          { outcome := .timeout, leaving := sl.leaving, origin := sl.origin, confirmed := [], lostTakers := sl.lostTakers
            takers := sl.takers.filter fun j => !sl.confirmed.contains j
            drained := sl.drained, evidence := .none, elapsed := min (s.sys.clock - sl.startTime) 65535
            suspensions := sl.suspensions, version := v })) ∧
      (sl.phase = .suspended → exec .handoverTimer s = .next s)) ∧
    (∀ present, s.pins.adapter = present → exec (.adapterChange present) s = .next s) ∧
    (∀ present, s.pins.adapter ≠ present → ∃ t, exec (.adapterChange present) s = .next t ∧
      t.pins = { s.pins with adapter := present } ∧ (s.rosterActive = true → PublishesChange s t) ∧
      (s.rosterActive = true → s.roster.slot = none → t.roster.record.adapter = present ∧
        ∀ r, r = recomputed s.config.reserve { s.roster.record with adapter := present } →
          t.roster.record.entries = r.entries ∧ t.roster.record.allowance = r.allowance) ∧
      (s.rosterActive = true → ∀ sl, s.roster.slot = some sl →
        (∀ j ∈ sl.takers, stateIs s.roster.record j .carrying = true) →
        ∀ r, r = recomputed s.config.reserve
          (mapEntry { s.roster.record with adapter := present } sl.leaving heldLeaving) →
        ∃ x, t.roster.slot = some x ∧ x.leaving = sl.leaving ∧ x.drained = sl.drained ∧
          t.roster.record.adapter = present ∧ t.roster.record.entries = r.entries ∧
          t.roster.record.allowance = r.allowance ∧
          (∀ j, j ∈ x.takers ↔ j ∈ sl.takers ∧ stateIs r j .ready = false ∨
            j ≠ sl.leaving ∧ stateIs s.roster.record j .ready = true ∧ stateIs r j .carrying = true) ∧
          (∀ j, j ∈ x.confirmed ↔ j ∈ sl.confirmed ∧ ¬ (j ∈ sl.takers ∧ stateIs r j .ready = true)) ∧
          (∀ j, j ∈ x.lostTakers ↔ j ∈ sl.lostTakers ∨ present = false ∧ j ∈ sl.takers ∧ stateIs r j .ready = true) ∧
          ∀ ends : Prop, (ends ↔ sl.phase = .shifting ∧ sl.drained = true ∧ ∀ j ∈ x.takers, j ∈ x.confirmed) →
            (¬ ends → x.phase = sl.phase ∧ x.letGoSent = sl.letGoSent ∧
              t.roster.handoverTimer = s.roster.handoverTimer) ∧
            (ends → x.phase = .freeing ∧ x.letGoSent = true ∧ t.roster.handoverTimer = some 3000 ∧
              (s.running = true → s.link.queue.length ≤ 2 →
                { target := .station sl.leaving, body := .letGo .handover } ∈ t.link.queue))) ∧
      (s.plays .base = true → s.link.deferred = true →
        t = { s with pins := t.pins, roster := { s.roster with
          record := { s.roster.record with adapter := present } } }) ∧
      (s.plays .base = false → t = { s with pins := t.pins }))

/-- The payload of a ROSTER spells its record, field by field (R207): what the BASE lays out is what a BAY or LID
reads. -/
def Obligations.RosterPayloadsSpellTheirRecord : Prop :=
  ∀ r : Roster, rosterFits r = true → parseRoster (rosterPayload r) = some r

/-! ### The bay -/

/-- The ends of a bay's times. The rescue grace and the REFUSED indication end (R56, R59); an ask without an answer is
taken as refused (R58); a cooled, a FREED and a LOST bay whose pack is there go to SEATED with a pack check, the FREED
one not under the shock hold (R52, R53, R55, R60); a LOST bay without its pack goes EMPTY; a pack check that runs its
time passes (R48, R61); and a delayed re-ask is made while the flag, the lever and the bay allow it (R60), its flag
cleared in either case (the model's reading, log entry 27). A check that serves the role check gives its result, OK at
its end and at the entry to EMPTY, with its SETTLED and, where the record has closed, its DROP record (R61, R109, R110,
R113; a SETTLED owed in LISTEN has the fields of that moment, log entry 65). At another role they do nothing. The
model's choices: the check of a bay that is seated serves a role check that runs, and starts its 300 ms again (log
entry 58); a FREED bay whose pack is not there stays FREED when its timer ends (log entry 57); and a check ends on the
way from LOST to EMPTY (log entry 68). -/
def Obligations.TheBayTakesItsTimers : Prop :=
  ∀ s : State,
    (s.plays .bay = false → ∀ c ∈ [Instr.rescueGraceEnd, .refusedLampTimer, .answerTimer, .coolingTimer, .freedTimer,
      .lostTimer, .packCheckEnd, .reAskDelayTimer], exec c s = .next s) ∧
    (s.plays .bay = true →
      exec .rescueGraceEnd s = .next { s with bay := { s.bay with grace := none } } ∧
      exec .refusedLampTimer s = .next { s with bay := { s.bay with refused := none } } ∧
      (s.bay.ask = .asked → s.bay.answer ≠ none → exec .answerTimer s =
        .next { s with bay := { s.bay with ask := .none, answer := none, refused := some 2000 } }) ∧
      (s.bay.ask ≠ .asked → exec .answerTimer s = .next s) ∧
      (∀ b : Bay, b = { s.bay with state := .seated, path := false, check := some 300, failing := none, freed := none,
                                   lostWait := none, cooling := none } →
        (s.bay.state = .faulted → s.bay.cooling ≠ none → exec .coolingTimer s = .next { s with bay := b }) ∧
        (s.bay.state = .freed → s.bay.freed ≠ none → s.pins.present = true → s.shock.state = .calm →
          exec .freedTimer s = .next { s with bay := b }) ∧
        (s.bay.state = .lost → s.bay.lostWait ≠ none → s.pins.present = true →
          exec .lostTimer s = .next { s with bay := b })) ∧
      (s.shock.state ≠ .calm ∨ s.pins.present = false → exec .freedTimer s = .next s) ∧
      (s.bay.state = .lost → s.bay.lostWait ≠ none → s.pins.present = false → ∃ t, exec .lostTimer s = .next t ∧
        t.bay = { s.bay with state := .empty, path := false, ask := .none, answer := none, cause := none,
                             freed := none, lostWait := none, cooling := none, check := none,
                             checkForRole := false } ∧
        (s.bay.checkForRole = false → t = { s with bay := t.bay }) ∧
        (s.bay.checkForRole = true → GivesResult s t .ok) ∧
        TellsAndRecords { s with bay := t.bay, shock := t.shock } t ∧ t.shock.state = s.shock.state) ∧
      (s.bay.check ≠ none → ∃ t, exec .packCheckEnd s = .next t ∧
        t.bay = { s.bay with
          check := none, checkForRole := false
          state := if s.bay.state = .seated then .ready else s.bay.state
          path := if s.bay.state = .seated then false else s.bay.path } ∧
        (s.bay.checkForRole = false → t = { s with bay := t.bay }) ∧
        (s.bay.checkForRole = true → GivesResult s t .ok) ∧
        TellsAndRecords { s with bay := t.bay, shock := t.shock } t ∧ t.shock.state = s.shock.state) ∧
      (s.bay.reAskDelay ≠ none →
        (s.bay.reAsk = true ∧ s.pins.lever = true ∧ s.mayAsk = true → exec .reAskDelayTimer s =
          .next (({ s with bay := { s.bay with reAskDelay := none, reAsk := false, ask := .asked, origin := .lever,
                                               answer := some 1000 } } : State).sendBase (.releaseAsk .lever))) ∧
        (¬ (s.bay.reAsk = true ∧ s.pins.lever = true ∧ s.mayAsk = true) → exec .reAskDelayTimer s =
          .next { s with bay := { s.bay with reAskDelay := none, reAsk := false } })))

/-- The lines and the charge report of a bay. PRESENT rising in EMPTY seats the pack and starts a check (R48); falling,
it is a lost contact with the path closed (R53), a forced removal with it open, and the end of FREED (R52), the first
two with their PACK record, whose charge is that of the latest report (R62; the model's reading, log entry 77). A role
check that runs ends with it, OK (R61, R110, R113). A rising LEVER asks for release where the bay may (R57), a falling
one clears the re-ask flag, in LISTEN too (the model's choice, log entry 73), and the charge is read while PRESENT is
high (R46). A level that is no change does nothing. That LOST goes to the sender of the image, and to every station
without one, is the model's reading (log entry 14). The bay's own outputs: LATCH follows the bay state, and is locked
under the shock hold and in STRAP_FAULT (R47, R60, R201), where its level in START, while RESETn is low and without
supply is the model's choice (log entry 25); the lamp shows the first indication of R59 that holds; and the path limit
is the share limit, or the rating without an assignment (R18, R47, R56, R63), where its level in START, with the bay
state EMPTY, is the model's choice (log entry 59). That the rating of a rescue close stands for an own entry of any
state but CARRYING (log entry 72), and that a check ends on the entry to LOST and from FREED to EMPTY (log entry 68),
is the model's choice. -/
def Obligations.TheBayTakesItsLines : Prop :=
  ∀ s : State,
    (∀ charge, (s.pins.present = true → exec (.presentRise charge) s = .next s) ∧
      (s.pins.present = false → exec (.presentRise charge) s = .next { s with
        pins := { s.pins with present := true, packCharge := charge }
        bay := if s.plays .bay then
            if s.bay.state = .empty then
              { s.bay with state := .seated, path := false, check := some 300, failing := none, freed := none,
                           lostWait := none, cooling := none, charge := charge }
            else { s.bay with charge := charge }
          else s.bay })) ∧
    (∀ charge, exec (.chargeReport charge) s = .next { s with
      pins := { s.pins with packCharge := charge }
      bay := if s.plays .bay && s.pins.present then { s.bay with charge := charge } else s.bay }) ∧
    (s.pins.present = false → exec .presentFall s = .next s) ∧
    (s.pins.present = true → s.plays .bay = false →
      exec .presentFall s = .next { s with pins := { s.pins with present := false } }) ∧
    (s.pins.present = true → s.plays .bay = true →
      (s.bay.state = .empty ∨ s.bay.state = .lost → exec .presentFall s =
        .next { s with pins := { s.pins with present := false }, bay := { s.bay with charge := 0 } }) ∧
      ∃ t, exec .presentFall s = .next t ∧
        TellsAndRecords { s with pins := { s.pins with present := false }, bay := t.bay, shock := t.shock } t ∧
        t.shock.state = s.shock.state ∧ t.bay.charge = 0 ∧
        (s.bay.checkForRole = true → s.bay.state ≠ .empty → s.bay.state ≠ .lost → GivesResult s t .ok) ∧
        (s.bay.state = .carrying ∨ s.bay.state = .releasing → t.bay.state = .lost ∧ t.bay.path = false ∧
          t.bay.lostWait = some 1000 ∧ t.bay.check = none ∧
          Records s t (s.packRecord .lost none s.bay.sample) ∧
          (s.running = true → placeNote s.link.queue { target := s.baseTarget, body := .lost } ≠ .refused →
            { target := s.baseTarget, body := .lost } ∈ t.link.queue)) ∧
        (s.bay.state = .seated ∨ s.bay.state = .ready ∨ s.bay.state = .faulted →
          Records s t (s.packRecord .pulled none s.bay.sample)) ∧
        (s.bay.state = .freed → s.bay.checkForRole = false → t.store = s.store) ∧
        (s.bay.state = .seated ∨ s.bay.state = .ready ∨ s.bay.state = .faulted ∨ s.bay.state = .freed →
          t.bay = { s.bay with state := .empty, path := false, ask := .none, answer := none, cause := none,
                               freed := none, lostWait := none, cooling := none, check := none,
                               checkForRole := false, charge := 0 })) ∧
    (s.pins.lever = true → exec .leverRise s = .next s) ∧
    (s.pins.lever = false → ∀ u : State, u = { s with pins := { s.pins with lever := true } } →
      (s.plays .bay = true ∧ s.mayAsk = true → exec .leverRise s =
        .next (({ u with bay := { s.bay with ask := .asked, origin := .lever, answer := some 1000 } } : State).sendBase
          (.releaseAsk .lever))) ∧
      (s.plays .bay = false ∨ s.mayAsk = false → exec .leverRise s = .next u)) ∧
    exec .leverFall s = .next { s with
      pins := { s.pins with lever := false }
      bay := if s.plays .bay then { s.bay with reAsk := false } else s.bay } ∧
    (s.plays .bay = true → s.latch =
      some (decide (s.shock.state ≠ .calm) || decide (s.bay.state ≠ .empty ∧ s.bay.state ≠ .freed))) ∧
    (s.active = true → s.sys.phase = .strapFault → s.latch = some true) ∧
    (s.active = true → s.sys.phase = .start → s.sys.role = .bay → s.latch = some true) ∧
    (s.active = false ∨ s.sys.phase ≠ .strapFault ∧ s.sys.role ≠ .bay → s.latch = none) ∧
    s.lamp = (if s.bay.refused ≠ none then .refused
      else if s.bay.state = .faulted then .fault
      else if s.bay.state = .freed ∧ s.shock.state = .calm then .free
      else if s.bay.ask ≠ .none ∨ s.bay.state = .releasing ∨ s.bay.state = .freed then .pending else .dark) ∧
    (s.bay.state ≠ .carrying → s.pathLimit = 0) ∧
    (s.bay.state = .carrying →
      (s.ownEntry = none → s.pathLimit = 4000) ∧
      (∀ i e, s.image = some i → rosterEntry i.record s.sys.station = some e →
        (s.bay.rescueRating = true ∧ e.state ≠ .carrying → s.pathLimit = 4000) ∧
        (s.bay.rescueRating = false ∨ e.state = .carrying → s.pathLimit =
          if e.state = .releasing then 0 else i.record.load * e.weight * 5 / 64)))

/-- What a pack sample calls for (R48, R53, R54): a failing sample of a running check, a voltage below 8000 mV with the
path closed, and 70 degrees or more in CARRYING, RELEASING or READY, each with its note and its PACK record (R62);
otherwise DRAINED (R50) or the cooling time (R55). A role check that runs ends with the entry to LOST, OK, or to
FAULTED, FAULT (R61, R110, R113). The run of rail samples, and the rescue close of a READY bay that it completes (R56):
the path closes, the rescue grace of 1000 ms starts, a PACK record but no note to the BASE is made, and the limit is
the rating unless the image assigns the bay CARRYING, and then the share limit of its entry (R18). The row RESCUE_CLOSE
is the completed run taken on its own (the model's choice, log entry 11), and the run is counted in every bay state
(log entry 54); which outcome of one sample is taken, and the failing quantity of one that fails both tests, is free
(log entries 7 and 8); that the check ends on the entry to LOST and by HOT to FAULTED (log entry 68), that DRAINED
carries the sample's current with PRESENT low too (log entry 70), and that the rating stands for an own entry of any
state but CARRYING (log entry 72) and is fixed at the close (log entry 71) is the model's choice, as is a grace that
starts under an image which already shows the own entry CARRYING (log entry 88); and where LOST, FAULT and DRAINED go
is its reading (log entry 14). -/
def Obligations.SamplesProtectThePack : Prop :=
  (∀ (s : State) (v c : Nat) (temp : Int), s.plays .bay = true → ∃ t, exec (.packSample v c temp) s = .next t ∧
    TellsAndRecords { s with bay := t.bay, shock := t.shock, free := t.free } t ∧ t.shock.state = s.shock.state ∧
    t.bay.sample = { voltage := v, current := c, temperature := temp } ∧
    (∀ fails lost hot : Prop,
      (fails ↔ s.bay.check ≠ none ∧ (v < 10000 ∨ 17000 < v ∨ 60 ≤ temp)) →
      (lost ↔ (s.bay.state = .carrying ∨ s.bay.state = .releasing) ∧ v < 8000) →
      (hot ↔ (s.bay.state = .carrying ∨ s.bay.state = .releasing ∨ s.bay.state = .ready) ∧ 70 ≤ temp) →
      (fails ∨ lost ∨ hot → t.bay.path = false ∧ t.bay.check = none ∧
        (t.bay.state = .lost ∧ lost ∨ t.bay.state = .faulted ∧ (fails ∨ hot))) ∧
      (t.bay.state = .faulted → fails ∨ hot → t.hasCond .packFault = true) ∧
      (s.bay.checkForRole = true → fails ∨ lost ∨ hot →
        GivesResult s t (if t.bay.state = .faulted then .fault else .ok)) ∧
      (fails ∨ lost ∨ hot → ∃ (b : NoteBody) (cause : PackCause) (failing : Option FailingQuantity),
        (t.bay.state = .lost ∧ b = .lost ∧ cause = .lost ∧ failing = none ∨
          t.bay.state = .faulted ∧ fails ∧ t.bay.cause = some .checkFail ∧ b = .fault .checkFail ∧ cause = .checkFail ∧
            failing = t.bay.failing ∨
          t.bay.state = .faulted ∧ hot ∧ t.bay.cause = some .hot ∧ b = .fault .hot ∧ cause = .hot ∧ failing = none) ∧
        Records s t (s.packRecord cause failing { voltage := v, current := c, temperature := temp }) ∧
        (s.running = true → placeNote s.link.queue { target := s.baseTarget, body := b } ≠ .refused →
          { target := s.baseTarget, body := b } ∈ t.link.queue)) ∧
      (hot → ¬ fails → ¬ lost → t.bay.cause = some .hot ∧ t.bay.cooling = some 10000) ∧
      (fails → ¬ lost → ¬ hot → t.bay.cause = some .checkFail ∧
        (¬ 60 ≤ temp → t.bay.failing = some .voltage ∧ t.bay.cooling = none) ∧
        (10000 ≤ v ∧ v ≤ 17000 → t.bay.failing = some .temperature ∧ t.bay.cooling = some 10000) ∧
        t.bay.failing ≠ none) ∧
      (lost → ¬ fails → ¬ hot → t.bay.lostWait = some 1000) ∧
      (¬ fails → ¬ lost → ¬ hot →
        (s.bay.state = .releasing ∧ s.bay.drainedSent = false ∧ c < s.config.letGoCurrent ∧ s.running = true →
          t = ({ s with bay := { s.bay with
            sample := { voltage := v, current := c, temperature := temp }, drainedSent := true } } : State).sendBase
              (.drained (min (c / 10) 255))) ∧
        (¬ (s.bay.state = .releasing ∧ s.bay.drainedSent = false ∧ c < s.config.letGoCurrent ∧ s.running = true) →
          t = { s with bay := { s.bay with
            sample := { voltage := v, current := c, temperature := temp }
            cooling := if s.bay.state = .faulted ∧ s.bay.cooling ≠ none ∧ 50 ≤ temp then some 10000
              else s.bay.cooling } })))) ∧
  (∀ (s : State), s.plays .bay = true →
    (∀ mv, ¬ (mv < 9000 ∧ 19 ≤ s.bay.railRun ∧ s.bay.state = .ready) → exec (.railSample mv) s =
      .next { s with bay := { s.bay with
        railRun := if mv < 9000 then min (s.bay.railRun + 1) 20 else 0 } }) ∧
    (∀ c, (∃ mv, mv < 9000 ∧ 19 ≤ s.bay.railRun ∧ c = .railSample mv) ∨ c = .rescueClose → s.bay.state = .ready →
      ∃ t, exec c s = .next t ∧ TellsAndRecords { s with bay := t.bay } t ∧
        (∀ n ∈ t.link.queue, n ∈ s.link.queue ∨ n.kind = .attention) ∧
        Records s t (s.packRecord .rescueClose none s.bay.sample) ∧
        t.bay = { s.bay with
          state := .carrying, path := true, railRun := 20, grace := some 1000, graceSkipped := false
          rescueRating := !(match s.ownEntry with
            | some e => e.state == .carrying
            | none => false) } ∧
        (∀ i e, s.image = some i → rosterEntry i.record s.sys.station = some e → e.state = .carrying →
          t.pathLimit = i.record.load * e.weight * 5 / 64) ∧
        ((∀ e, s.ownEntry = some e → e.state ≠ .carrying) → t.pathLimit = 4000)) ∧
    (s.bay.state ≠ .ready → exec .rescueClose s = .next s))

/-- RELEASE-WAIT, RELEASE-NO and LET-GO at a bay: the ask waits, or is refused with its re-ask flag and delay (R58,
R60), or the bay becomes FREED and sends GONE, which waits in LISTEN (R51, R52, R63). Another role's blocks ignore
them, and so does a bay in another state, or of another BASE, a LET-GO, its ask state too (the model's choice, log
entry 55). That a LET-GO ends a pack check in RELEASING, READY and FAULTED too, where R51 names SEATED, is the model's
choice (log entry 68). A role check that runs ends with the entry to FREED, OK (R61, R110, R113), its SETTLED behind
GONE (the model's choice, log entry 89). Where GONE goes is the model's reading (log entry 14). -/
def Obligations.TheBayTakesItsAnswers : Prop :=
  ∀ (s : State) (k : Station) (tgt : Target), ∀ h : State, h = s.heard k →
    (s.admits .releaseWait k tgt = true → ∀ p,
      (h.plays .bay = true → exec (.releaseWait k tgt p) s =
        .next { h with bay := { h.bay with ask := .waiting p, answer := none } }) ∧
      (h.plays .bay = false → exec (.releaseWait k tgt p) s = .next (s.hears k))) ∧
    (s.admits .releaseNo k tgt = true → ∀ reason,
      (h.plays .bay = true → ∀ again : Bool,
        again = (decide (reason = .held) && decide (h.bay.origin = .lever) && h.pins.lever) →
        exec (.releaseNo k tgt reason) s = .next { h with bay := { h.bay with
          ask := .none, answer := none, refused := some 2000, reAsk := h.bay.reAsk || again
          reAskDelay := if again = true ∧ h.shock.state = .calm then some 1000 else h.bay.reAskDelay } }) ∧
      (h.plays .bay = false → exec (.releaseNo k tgt reason) s = .next (s.hears k))) ∧
    (s.admits .letGo k tgt = true → ∀ kind,
      ∀ taken : Prop, (taken ↔ h.plays .bay = true ∧ (∀ i, h.image = some i → i.sender = k) ∧
        (h.bay.state = .releasing ∨ h.bay.state = .seated ∨ h.bay.state = .ready ∨ h.bay.state = .faulted)) →
      (¬ taken → exec (.letGo k tgt kind) s = .next (s.hears k)) ∧
      (taken → ∃ t, exec (.letGo k tgt kind) s = .next t ∧
        t.bay = { h.bay with
          state := .freed, path := false, ask := .none, answer := none, reAsk := false, freed := some 30000
          cooling := none, check := none, checkForRole := false, goneOwed := h.bay.goneOwed || h.listening } ∧
        (h.running = true → roomOrdinary h.link.queue = true →
          { target := h.baseTarget, body := .gone } ∈ t.link.queue) ∧
        (h.bay.checkForRole = true → GivesResult h t .ok) ∧
        TellsAndRecords { h with bay := t.bay, shock := t.shock } t ∧ t.shock.state = h.shock.state))

/-- A ROSTER that differs from the image replaces it at a BAY or LID, and the bay acts on its own entry by the table of
R49, its moves of the path deferred in LISTEN and under the shock hold; an image that names a leaving station flags the
record in progress (R17, R49, R118). An image that gives the bay a CARRYING entry ends the path rating of a rescue
close (R56). A ROSTER that repeats the image, and one at a BASE, is heard and no more. That an image which shows the
entry CARRYING with weight 0 in the rescue grace leaves the bay CARRYING is the model's choice (log entry 53); that
TAKEN goes to the sender of the image is its reading (log entry 14). At a LID the stage follows the image: a RELEASING
entry forces BOOST to PASS, and its end returns PASS to BOOST in mode BOOST (R91); in AUTO the adapter takes BOOST to
PASS (R90); the boost test is made while headroom is low (R89); a stage in OFF leaves it where a zone comes to have a
target (R86, from none to some, the model's reading, log entry 21); and demands and targets are recomputed with the new
image and the stage as it ends, no drive above its target (R75, R76; the order of the effects is the model's reading,
log entry 22). -/
def Obligations.TheImageIsReplacedAndTheBayActs : Prop :=
  ∀ (s : State) (k : Station) (tgt : Target) (payload : List Byte) (r : Roster), parseRoster payload = some r →
    s.admits .roster k tgt = true → ∀ h : State, h = s.heard k → ∀ differs : Prop,
    (differs ↔ (h.plays .bay = true ∨ h.plays .lid = true) ∧
      ∀ i, h.image = some i → i.sender ≠ k ∨ i.record.epoch ≠ r.epoch ∨ i.record.version ≠ r.version) →
    (¬ differs → exec (.roster k tgt payload) s = .next (s.hears k)) ∧
    (differs → ∃ t, exec (.roster k tgt payload) s = .next t ∧ t.image = some { sender := k, record := r } ∧
      Tells { h with image := t.image, bay := t.bay, panel := t.panel, supply := t.supply, shock := t.shock } t ∧
      (r.leaving = none → t.shock = h.shock) ∧
      (r.leaving ≠ none → t.shock = { h.shock with episode := h.shock.episode.map fun e =>
        { e with drop := { e.drop with duringHandover := true } } }) ∧
      (h.plays .bay = true → ∀ carry release defer : Prop,
        (carry ↔ ∃ e, rosterEntry r h.sys.station = some e ∧ e.state = .carrying ∧ 0 < e.weight) →
        (release ↔ ∃ e, rosterEntry r h.sys.station = some e ∧ e.state = .releasing) →
        (defer ↔ h.shock.state ≠ .calm ∨ h.sys.phase = .listen) →
        ((∃ e, rosterEntry r h.sys.station = some e ∧ e.state = .carrying) → t.bay.rescueRating = false) ∧
        ((∀ e, rosterEntry r h.sys.station = some e → e.state ≠ .carrying) →
          t.bay.rescueRating = h.bay.rescueRating) ∧
        (h.bay.state = .ready → carry → ¬ defer → t.bay.state = .carrying ∧ t.bay.path = true ∧
          (roomOrdinary h.link.queue = true →
            { target := .station k, body := .taken r.version } ∈ t.link.queue)) ∧
        (h.bay.state = .ready → ¬ carry ∨ defer → t.bay.state = .ready ∧ t.bay.path = h.bay.path) ∧
        (h.bay.state = .carrying → release → t.bay.state = .releasing ∧ t.bay.path = true ∧
          t.bay.drainedSent = false ∧ t.bay.ask = .none) ∧
        (h.bay.state = .carrying → carry → t.bay.state = .carrying ∧ t.bay.path = h.bay.path ∧ t.bay.grace = none) ∧
        (h.bay.state = .carrying → ¬ release → ¬ carry → ¬ defer → h.bay.grace = none →
          t.bay.state = .ready ∧ t.bay.path = false) ∧
        (h.bay.state = .carrying → ¬ release → ¬ carry → defer ∨ h.bay.grace ≠ none →
          t.bay.state = .carrying ∧ t.bay.path = h.bay.path) ∧
        (h.bay.state = .releasing → (∃ e, rosterEntry r h.sys.station = some e ∧ e.state = .carrying) →
          t.bay.state = .carrying ∧ t.bay.path = true) ∧
        (h.bay.state = .releasing → release → t.bay.state = .releasing ∧ t.bay.path = h.bay.path) ∧
        (h.bay.state = .releasing → ¬ release →
          (∀ e, rosterEntry r h.sys.station = some e → e.state ≠ .carrying) →
          (¬ defer → t.bay.state = .ready ∧ t.bay.path = false) ∧
          (defer → t.bay.state = .releasing ∧ t.bay.path = h.bay.path)) ∧
        (h.bay.state ≠ .ready → h.bay.state ≠ .carrying → h.bay.state ≠ .releasing →
          t.bay.state = h.bay.state ∧ t.bay.path = h.bay.path)) ∧
      (h.plays .lid = true →
        h.supply.low = true ∨ (∀ z : ZoneId, h.compared z = true → h.pins.headroomLow[z] = false) →
        ∀ releasing was : Bool, (releasing = true ↔ ∃ e ∈ r.entries, e.state = .releasing) →
        (was = true ↔ ∃ i, h.image = some i ∧ ∃ e ∈ i.record.entries, e.state = .releasing) → ∀ first second : Stage,
        first = (match h.supply.stage with
          | .off => .off
          | .boost => if releasing = true ∨ h.config.boostMode = .auto ∧ r.adapter = true then .pass else .boost
          | .pass => if h.config.boostMode = .boost ∧ was = true ∧ releasing = false then .boost else .pass) →
        second = (if h.supply.low = true ∧ first = .pass ∧ h.config.boostMode = .auto ∧ releasing = false ∧
            r.adapter = false then .boost else first) →
        ∀ lit : Stage → State,
        (∀ g, lit g = ({ h with image := t.image, supply := { h.supply with stage := g } } : State).retarget) →
        ∀ leaves : Prop, (leaves ↔ second = .off ∧ (∃ z : ZoneId, (lit .off).panel.zones[z].target ≠ 0) ∧
          ∀ z : ZoneId, h.panel.zones[z].target = 0) →
        (h.supply.low = true → first = .boost ∨ first = .pass ∧ (h.config.boostMode = .pass ∨ releasing = true ∨
          h.config.boostMode = .auto ∧ r.adapter = true) → t.hasCond .headroom = true) ∧
        (¬ leaves → t.supply.stage = second) ∧
        (leaves → t.supply.stage = if h.config.boostMode = .boost ∧ releasing = false then .boost else .pass) ∧
        (∀ z : ZoneId, t.panel.zones[z].demand = (lit t.supply.stage).panel.zones[z].demand ∧
          t.panel.zones[z].target = (lit t.supply.stage).panel.zones[z].target ∧
          t.panel.zones[z].applied ≤ t.panel.zones[z].target ∧
          (¬ leaves → t.panel.zones[z] = (lit second).panel.zones[z]) ∧
          t.supply.indications[z] =
            if t.compared z = true then (if h.pins.headroomLow[z] = true then .low else .ok) else .none) ∧
        t.panel = { h.panel with zones := t.panel.zones, ramp := t.panel.ramp } ∧
        t.supply = { h.supply with
          stage := t.supply.stage, indications := t.supply.indications, offTimer := t.supply.offTimer }))

/-! ### The panel and its supply -/

/-- The demand of each zone at a recomputation, with the shock fader 0 at a LID whose shock state is not CALM and 255
elsewhere (R70, R71, R84). -/
def Obligations.DemandsFollowTheirSteps : Prop :=
  ∀ (s : State) (z : ZoneId), ∀ zone : Zone, zone = s.panel.zones[z] → ∀ g p q d : Nat,
    g = (match zone.config.group with
      | .a => s.panel.groupA
      | .b => s.panel.groupB
      | .none => 255) →
    p = g * s.panel.ambient / 255 →
    q = (if zone.config.curve = .square then p * p / 255 else p) →
    d = (if (s.sys.role = .lid ∧ s.shock.state ≠ .calm) ∨ zone.enabled = false then 0
      else zone.config.base * q / 255) →
    s.retarget.panel.zones[z].demand = d ∧
    (g ≤ 255 → s.panel.ambient ≤ 255 → zone.config.base ≤ 250 → d ≤ 250 ∧ d ≤ zone.config.base)

/-- The clamp (R74) and the cut at once (R76, R78) at a recomputation: each target is at most its demand, the targets
sum to at most the effective allowance, and no applied drive stands above its target, or above 0 under a string test's
hold. Where the demands exceed the allowance, the sheddable zones give up the excess in proportion while they can, and
else are dark while the proportional zones share the allowance (R74, step 2). The effective allowance is the granted
value, or two thirds of it in BOOST, and the granted value is 400 mA without an image, while its sender is silent, and
at a part that is no LID (R72, R73, R84). -/
def Obligations.ClampStaysWithinTheAllowance : Prop :=
  ∀ s : State,
    (∀ z : ZoneId, s.retarget.panel.zones[z].target ≤ s.retarget.panel.zones[z].demand ∧
      s.retarget.panel.zones[z].applied =
        (if s.supply.test = none then min s.panel.zones[z].applied s.retarget.panel.zones[z].target else 0)) ∧
    sumZones s.retarget.panel Zone.target ≤ s.effective ∧
    (sumZones s.retarget.panel Zone.demand ≤ s.effective →
      ∀ z : ZoneId, s.retarget.panel.zones[z].target = s.retarget.panel.zones[z].demand) ∧
    (∀ excess shed prop : Nat,
      shed = sumZones s.retarget.panel (fun z => if z.config.sheddable then z.demand else 0) →
      prop = sumZones s.retarget.panel (fun z => if z.config.sheddable then 0 else z.demand) →
      sumZones s.retarget.panel Zone.demand = s.effective + excess → 0 < excess →
      ∀ (z : ZoneId) (y : Zone), y = s.retarget.panel.zones[z] →
        (excess ≤ shed → y.target = if y.config.sheddable then y.demand * (shed - excess) / shed else y.demand) ∧
        (shed < excess → y.target = if y.config.sheddable then 0 else y.demand * s.effective / prop)) ∧
    s.retarget = { s with panel := s.retarget.panel } ∧ s.retarget.effective = s.effective ∧
    (s.image = none → s.granted = 400) ∧
    (∀ i, s.image = some i → s.granted =
      if s.sys.role = .lid ∧ (s.peer i.sender).silent = false then i.record.allowance else 400) ∧
    s.effective = if s.supply.stage = .boost then s.granted * 2 / 3 else s.granted

/-- A step keeps the targets of a LID's zones summing to at most the effective allowance it holds (R74 to R76). -/
def Obligations.StepKeepsTheAllowance : Prop :=
  ∀ s t : State, s.lightLaw → step s = .next t → t.lightLaw

/-- An ambient reading at a LID joins the filter of the last 10 (R66), and in AUTO moves the ambient fader to the
curve's value of the mean where the two differ by 8 or more (R68): on a curve that rises, the first fader value below
the first lux value, the last at or above the last, and between two points the floor of the line between them (R67).
The ramp step raises each zone below its target by 8 mA, or to its target if that is nearer, and none under a string
test's hold (R77, R78); the off timer's expiry puts the stage OFF (R87), where no zone has come to have a target by it.
Without their timers they do nothing. -/
def Obligations.ReadingsAndTimersDriveThePanel : Prop :=
  (∀ (s : State) (lux : Nat),
    (s.plays .lid = false → exec (.ambientReading lux) s = .next s) ∧
    (s.plays .lid = true → s.panel.filter.length ≤ 10 → ∃ t, exec (.ambientReading lux) s = .next t ∧
      ∀ filter : List Nat,
        filter = (if s.panel.filter.length = 10 then s.panel.filter.tail else s.panel.filter) ++ [lux] →
      ∀ c, c = curveValue s.config.curve (filter.sum / filter.length) →
        t.panel.filter = filter ∧ t.panel.mode = s.panel.mode ∧
        t.panel.groupA = s.panel.groupA ∧ t.panel.groupB = s.panel.groupB ∧
        t.panel.ambient = (if s.panel.mode = .auto ∧ (s.panel.ambient + 8 ≤ c ∨ c + 8 ≤ s.panel.ambient) then c
          else s.panel.ambient) ∧
        (¬ (s.panel.mode = .auto ∧ (s.panel.ambient + 8 ≤ c ∨ c + 8 ≤ s.panel.ambient)) →
          t = { s with panel := { s.panel with filter := filter } }) ∧
        (∀ z : ZoneId, t.panel.zones[z].enabled = s.panel.zones[z].enabled) ∧
        Tells { s with panel := t.panel, supply := t.supply } t)) ∧
  (∀ (curve : List (Nat × Nat)) (m : Nat), curve.Pairwise (fun a b => a.1 < b.1 ∧ a.2 ≤ b.2) →
    (∀ p, curve.head? = some p → m < p.1 → curveValue curve m = p.2) ∧
    (∀ p, curve.getLast? = some p → p.1 ≤ m → curveValue curve m = p.2) ∧
    (∀ i p q, curve[i]? = some p → curve[i + 1]? = some q → p.1 ≤ m → m < q.1 →
      curveValue curve m = p.2 + (m - p.1) * (q.2 - p.2) / (q.1 - p.1))) ∧
  (∀ s : State, s.plays .lid = true →
    (s.panel.ramp = none → exec .rampTimer s = .next s) ∧
    (s.panel.ramp ≠ none → s.supply.test ≠ none →
      exec .rampTimer s = .next { s with panel := { s.panel with ramp := none } }) ∧
    (s.panel.ramp ≠ none → s.supply.test = none → ∃ t, exec .rampTimer s = .next t ∧
      (∀ z : ZoneId, t.panel.zones[z].applied ≤ max s.panel.zones[z].applied
        (min (s.panel.zones[z].applied + 8) s.panel.zones[z].target)) ∧
      ((∀ z : ZoneId, s.pins.headroomLow[z] = false) → ∀ z : ZoneId, t.panel.zones[z] = { s.panel.zones[z] with
        applied := if s.panel.zones[z].applied < s.panel.zones[z].target then
          min (s.panel.zones[z].applied + 8) s.panel.zones[z].target else s.panel.zones[z].applied }) ∧
      t.supply.results = s.supply.results ∧ t.supply.test = s.supply.test ∧
      Tells { s with panel := t.panel, supply := t.supply } t) ∧
    (s.supply.offTimer = none → exec .offTimer s = .next s) ∧
    (s.supply.offTimer ≠ none →
      s.panel.anyTarget = true ∨ (∀ z : ZoneId, demandOf s.panel s.shockFader s.panel.zones[z] = 0) →
      ∃ t, exec .offTimer s = .next t ∧ t.supply.stage = .off ∧ t.supply.offTimer = none ∧
        t.supply.results = s.supply.results ∧ t.supply.test = s.supply.test ∧
        (∀ z : ZoneId, t.panel.zones[z].enabled = s.panel.zones[z].enabled) ∧
        Tells { s with panel := t.panel, supply := t.supply } t))

/-- The comparator's report for a string at a LID: its indication follows while the string is compared (R88), and
headroom that becomes low makes the boost test, which sets HEADROOM or puts the stage in BOOST (R89). Another role
keeps the report alone. -/
def Obligations.HeadroomReportsMakeTheBoostTest : Prop :=
  ∀ (s : State) (z : ZoneId) (low : Bool), ∃ t, exec (.headroomReport z low) s = .next t ∧
    t.pins = { s.pins with headroomLow := s.pins.headroomLow.set z low } ∧
    (s.plays .lid = false → t = { s with pins := t.pins }) ∧
    Tells { s with pins := t.pins, panel := t.panel, supply := t.supply } t ∧
    t.supply.results = s.supply.results ∧ t.supply.test = s.supply.test ∧
    (s.plays .lid = true →
      (s.supply.low = true → t.supply.stage = s.supply.stage ∧
        t.supply.indications[z] = if s.compared z then (if low then .low else .ok) else .none) ∧
      (s.supply.low = false → low = true → s.compared z = true →
        (s.supply.stage = .pass → s.config.boostMode = .auto → s.imageReleasing = false → s.imageAdapter = false →
          t.supply.stage = .boost) ∧
        (s.supply.stage = .boost ∨ s.supply.stage = .pass ∧ (s.config.boostMode = .pass ∨
            s.imageReleasing = true ∨ s.config.boostMode = .auto ∧ s.imageAdapter = true) →
          t.supply.stage = s.supply.stage ∧ t.hasCond .headroom = true)) ∧
      ((∀ y : ZoneId, s.pins.headroomLow[y] = false) → low = false →
        t.supply.stage = s.supply.stage ∧ ∀ y : ZoneId, t.panel.zones[y] = s.panel.zones[y]))

/-- A string test starts at a LID with its test set and 100 ms, every applied drive 0, the stage, the demands and the
targets as they were, and 10 mA in each string under test and none in another (R78, R92). It ends with the results
measured for its test set, the zones' states that follow from them, STRING_FAULT where one is faulty, and the hold over
(R94, R95), with a STRING record where one is faulty or a zone's state has changed, which holds the stage as it is
before the hold ends (R95, steps 4 and 5, R98); the role check's result goes to the Shock Monitor (R97), with its
SETTLED and, where the record has closed, its DROP record (R110, R113), and the console's test is answered with the
results and the zones' states, where the queue has room for what the test tells. -/
def Obligations.StringTestsHoldAndReport : Prop :=
  ∀ (s : State),
    (∀ trigger, (s.startTest trigger).supply.test =
        some { trigger := trigger, testSet := zones.filter fun z => s.config.zones[z].enabled, timer := 100 } ∧
      (∀ z : ZoneId, (s.startTest trigger).panel.zones[z] = { s.panel.zones[z] with applied := 0 }) ∧
      (s.startTest trigger).supply.stage = s.supply.stage ∧
      (s.plays .lid = true → ∀ z : ZoneId,
        (s.startTest trigger).stringCurrent z = if s.config.zones[z].enabled then 10 else 0) ∧
      Tells { s with panel := (s.startTest trigger).panel, supply := (s.startTest trigger).supply }
        (s.startTest trigger)) ∧
    (∀ m, s.plays .lid = false ∨ s.supply.test = none → exec (.stringTestEnd m) s = .next s) ∧
    (s.plays .lid = true → ∀ x m, s.supply.test = some x → ∃ t, exec (.stringTestEnd m) s = .next t ∧
      t.supply.test = none ∧
      (∀ z : ZoneId, t.supply.results[z] = if z ∈ x.testSet then m[z].result else s.supply.results[z]) ∧
      (∀ z : ZoneId, t.panel.zones[z].enabled =
        if z ∉ x.testSet then s.panel.zones[z].enabled
        else if m[z] = .ok then true
        else if s.panel.zones[z].config.masked then s.panel.zones[z].enabled else false) ∧
      ((∃ z ∈ x.testSet, m[z] ≠ .ok) → t.hasCond .stringFault = true) ∧
      (∀ result : CheckResult, result =
          (if ∃ z ∈ x.testSet, m[z] ≠ .ok ∧ s.panel.zones[z].config.masked = false then .fault else .ok) →
        x.trigger = .checking → GivesResult s t result) ∧
      (x.trigger ≠ .checking → t.shock = s.shock) ∧ t.shock.state = s.shock.state ∧
      (x.trigger = .console → s.running = true → s.link.queue.length ≤ 1 →
        (s.store.engine ≠ .idle ∧ ∀ r cause, s.store.engine ≠ .erase r cause) ∨
          (∀ z ∈ x.testSet, m[z] = .ok ∧ s.panel.zones[z].enabled = true) → ∀ n : Note,
        n = { target := .station 0, body :=
          .reply .testStrings .done (.strings t.supply.results (t.panel.zones.map Zone.enabled)) } →
        n ∈ t.link.queue) ∧
      (∀ record : StringRecord, record =
          { trigger := x.trigger, results := t.supply.results, stage := s.supply.stage, shock := s.shock.state
            masked := zones.filter fun z => s.panel.zones[z].config.masked && t.supply.results[z].faulty
            disabled := zones.filter fun z => !t.panel.zones[z].enabled
            changed := zones.filter fun z => t.panel.zones[z].enabled != s.panel.zones[z].enabled
            version := match s.image with
              | some i => i.record.version
              | none => 0 } →
        ((∃ z ∈ x.testSet, m[z] ≠ .ok) ∨ record.changed ≠ [] → Records s t (.string record)) ∧
        ((∀ z ∈ x.testSet, m[z] = .ok) → record.changed = [] → x.trigger ≠ .checking → t.store = s.store)) ∧
      TellsAndRecords { s with panel := t.panel, supply := t.supply, shock := t.shock } t)

/-- SET-LEVEL and TEST-STRINGS: at a LID in RUNNING the faders and the ambient mode change as their fields name (R69,
R80), and the REPLY with DONE is queued; where the queue has no room for it, LINK_OVERRUN is set and the effect stands
(R194); and the console's string test starts where no shock and no test stands in its way (R93); what is refused
changes nothing but its reply. -/
def Obligations.TheConsoleSetsAndTestsThePanel : Prop :=
  ∀ (s : State) (k : Station) (tgt : Target), ∀ h : State, h = s.heard k →
    (s.admitsConsole .setLevel k tgt = true → ∀ level,
      (h.sys.role ≠ .lid → ∀ g m, exec (.setLevel k tgt g level m) s = .next (h.refuse .setLevel .notRole)) ∧
      (h.sys.role = .lid → ∀ g m, (∃ n, g = .bad n) ∨ (∃ n, m = .bad n) →
        exec (.setLevel k tgt g level m) s = .next (h.refuse .setLevel .badValue)) ∧
      (h.sys.role = .lid → ∀ g m, ∃ t, exec (.setLevel k tgt (.val g) level (.val m)) s = .next t ∧
        t.panel.groupA = (if g = .a then level else h.panel.groupA) ∧
        t.panel.groupB = (if g = .b then level else h.panel.groupB) ∧
        t.panel.mode = (match m with
          | .fixed => .fixed
          | .auto => .auto
          | .keep => h.panel.mode) ∧
        (m = .fixed → h.panel.mode = .auto → t.panel.ambient = 255) ∧
        (m = .auto → h.panel.mode = .fixed → ∀ mean, ambientMean h.panel.filter = some mean →
          t.panel.ambient = curveValue h.config.curve mean) ∧
        (m = .keep → t.panel.ambient = h.panel.ambient) ∧
        (g = .keep → m = .keep → t = h.reply .setLevel .done) ∧
        (roomOrdinary h.link.queue = true →
          { target := .station 0, body := .reply .setLevel .done .none } ∈ t.link.queue) ∧
        (roomOrdinary h.link.queue = false → t.hasCond .linkOverrun = true) ∧
        t.panel.filter = h.panel.filter ∧ t.supply.results = h.supply.results ∧ t.supply.test = h.supply.test ∧
        Tells { h with panel := t.panel, supply := t.supply } t)) ∧
    (s.admitsConsole .testStrings k tgt = true →
      (h.sys.role ≠ .lid → exec (.testStrings k tgt) s = .next (h.refuse .testStrings .notRole)) ∧
      (h.sys.role = .lid → h.shock.state ≠ .calm →
        exec (.testStrings k tgt) s = .next (h.refuse .testStrings .held)) ∧
      (h.sys.role = .lid → h.shock.state = .calm → h.supply.test ≠ none →
        exec (.testStrings k tgt) s = .next (h.refuse .testStrings .busy)) ∧
      (h.sys.role = .lid → h.shock.state = .calm → h.supply.test = none →
        exec (.testStrings k tgt) s = .next (h.startTest .console)))

/-! ### Shock episodes -/

/-- A fall in CALM starts an episode (R103, R104). An own fall drives the alert line and queues FALL; it is met by
OWN_FALL and by the sample that completes the free-fall run (the model's choice, log entry 11), and any other sample in
CALM moves the run alone (R100). A remote fall comes by a FALL note, whose sender is the source station, or by the
alert line that another station alone drives, with no source station. The station's blocks leave CALM (R115). In
FALLING and IMPACT there is no own fall, and a FALL note names the source station of a remote episode that has none.
The end of its sender's silence is taken before the episode starts (the model's reading, log entry 50). That the new
record's peak is 0, the samples of the run that met an own fall not counted, is the model's choice (log entry 75). -/
def Obligations.FallsStartAnEpisode : Prop :=
  (∀ s : State, s.awake = true →
    (s.shock.state = .calm → ∀ (c : Instr) (h : State),
      c = .ownFall ∧ h = s ∨
        (∃ m a, m < s.config.freeFallThreshold ∧ s.config.fallTime ≤ s.shock.freeFall + 1 ∧
          c = .motionSample m a ∧ h = { s with shock := { s.shock with freeFall := s.shock.freeFall + 1 } }) →
      ∃ t, exec c s = .next t ∧ t.link.laDrive = true ∧ LeavesCalm h t .own none ∧
        ∀ n : Note, n = { target := .all, body := .fall (countUp s.shock.count) s.config.fallTime } →
          placeNote s.link.queue n ≠ .refused → n ∈ t.link.queue) ∧
    (s.shock.state = .calm → ∀ m a run, run = (if m < s.config.freeFallThreshold then s.shock.freeFall + 1 else 0) →
      run < s.config.fallTime →
      exec (.motionSample m a) s = .next { s with shock := { s.shock with freeFall := run } }) ∧
    (s.shock.state = .falling ∨ s.shock.state = .impact → exec .ownFall s = .next s)) ∧
  (∀ s : State,
    (∀ k tgt count time, s.admits .fall k tgt = true → ∀ h : State, h = s.heard k →
      (h.shock.state = .calm → ∃ t, exec (.fall k tgt count time) s = .next t ∧
        LeavesCalm (h.rosterSilence k) t .remote (some k) ∧ t.link.laDrive = h.link.laDrive) ∧
      (h.shock.state = .falling ∨ h.shock.state = .impact → exec (.fall k tgt count time) s =
        .next (s.attend k { h with shock := { h.shock with episode := h.shock.episode.map fun e =>
          if e.drop.source = .remote ∧ e.drop.sourceStation = none then
            { e with drop := { e.drop with sourceStation := some k } } else e } }))) ∧
    (s.awake = true → s.shock.state = .calm → s.link.laDrive = false → ∃ t, exec (.alertLineChange true) s = .next t ∧
      LeavesCalm { s with pins := { s.pins with laOthers := true } } t .remote none ∧ t.link.laDrive = false) ∧
    (∀ others, s.awake = false ∨ others = false ∨ s.shock.state = .falling ∨ s.shock.state = .impact ∨
        s.link.laDrive = true →
      exec (.alertLineChange others) s = .next { s with pins := { s.pins with laOthers := others } }))

/-- A fall in SETTLING or CHECKING interrupts the episode and starts the next in the same event (R114, R130): an own
fall, a FALL note, or a rise of the alert line. The record in progress is handed over as an INTERRUPTED DROP record, at
a coordinator that was open with the summary of reason INTERRUPTED (R114, step 1, R117, R129, R130). A closed record
that awaits its result is not touched, and a coordinator that was open opens again. A SUSPENDED slot is judged by the
results taken so far: a bay whose SETTLED result was FAULT has failed, one without a result is not judged, and a
handover that fails is aborted with COVER_LOST, the wait list held (R41, R130, step 3). The sample that completes the
free-fall run is met as the own fall (R108, R109), and the row OWN_FALL is that event taken on its own (the model's
choice, log entry 11); one that completes the rest run too enters CHECKING and then falls (the model's reading, log
entry 32). That this sample counts for the peak of the record it interrupts is the model's reading (log entry 43). -/
def Obligations.FallsInterruptAnEpisode : Prop :=
  (∀ s : State, s.awake = true → s.shock.state = .settling ∨ s.shock.state = .checking →
    ∀ (c : Instr) (h : State) (source : Source) (station : Option Station),
    (c = .ownFall ∧ h = s ∧ source = .own ∧ station = none ∨
      (∃ k tgt n m, c = .fall k tgt n m ∧ s.admits .fall k tgt = true ∧ h = s.heard k ∧ source = .remote ∧
        station = some k) ∨
      c = .alertLineChange true ∧ s.pins.laOthers = false ∧ s.link.laDrive = false ∧
        h = { s with pins := { s.pins with laOthers := true } } ∧ source = .remote ∧ station = none) →
    ∃ t, exec c s = .next t ∧ t.shock.state = .falling ∧ t.shock.count = countUp s.shock.count ∧
      t.shock.fallWindow = some 1000 ∧ t.shock.checking = none ∧ t.shock.calmOwed = false ∧
      t.shock.closed = h.shock.closed ∧
      (∃ e, t.shock.episode = some e ∧ e.drop.source = source ∧ e.drop.sourceStation = station ∧
        e.drop.count = t.shock.count ∧ e.drop.impactCount = 0 ∧ e.checkPending = false) ∧
      (h.coordinates = true → h.coord.state ≠ .calm → t.coord.state = .opened ∧ t.coord.count = t.shock.count ∧
        ((∀ j, h.lags j = false) → JudgesHandover h t h.coord.Faulted false)) ∧
      (∀ e, s.shock.episode = some e → s.store.engine ≠ .idle → (∀ r cause, s.store.engine ≠ .erase r cause) →
        s.store.queue.length < 8 → ∃ q ∈ t.store.queue, ∃ x,
          q.content = .drop { e.drop with calmBy := .none, outcome := .interrupted } x ∧
          (h.coordinates = false ∨ h.coord.state = .calm → x = none) ∧
          (h.coordinates = true → h.coord.state ≠ .calm → ∃ y, x = some y ∧ y.reason = .interrupted ∧
            y.participantCount = h.coord.participants.length)) ∧
      (source = .own → t.link.laDrive = true) ∧ (source = .remote → t.link.laDrive = s.link.laDrive) ∧
      t.flash = s.flash ∧ t.image = s.image ∧ t.pins = h.pins ∧ t.config = s.config ∧ t.link.peers = h.link.peers ∧
      t.bay.state = s.bay.state) ∧
  (∀ (s : State) (m : Nat) (a : Axis), s.awake = true → m < s.config.freeFallThreshold →
    m < s.config.impactThreshold → s.config.fallTime ≤ s.shock.freeFall + 1 → ∀ e, s.shock.episode = some e →
    ∀ x : Episode, x = (if e.drop.peak < m then { e with drop := { e.drop with peak := m, axis := a } } else e) →
    (s.shock.state = .checking → exec (.motionSample m a) s = exec .ownFall { s with shock := { s.shock with
      freeFall := s.shock.freeFall + 1, episode := some x } }) ∧
    (s.shock.state = .settling → ∀ rest, rest = (if 12 ≤ m ∧ m ≤ 20 then s.shock.rest + 1 else 0) →
      (rest < 500 → exec (.motionSample m a) s = exec .ownFall { s with shock := { s.shock with
        freeFall := s.shock.freeFall + 1, rest := rest, episode := some x } }) ∧
      (500 ≤ rest → ∃ t, exec (.motionSample m a) s = .next t ∧ t.shock.state = .falling ∧
        t.shock.count = countUp s.shock.count)))

/-- A sample at or above the impact threshold in FALLING or SETTLING enters IMPACT (R106, R108): the impact count
advances, the peak follows, the fall duration is fixed, and IMPACT is handed over; a SETTLING sample moves its runs
whatever its magnitude (R100). In IMPACT and CHECKING a sample moves the runs, the peak and, as a knock at rest, the
impact count (R107, R109), and in FALLING one below the threshold moves the peak alone; that the samples of FALLING,
SETTLING and CHECKING count for the peak is the model's reading (log entry 43). At the end of an impact and of the fall
window (R105, R107) the station settles, its runs at 0, and releases the alert line; outside FALLING the window's end
releases the line alone. IMPACT_END is also met by the sample that completes the quiet run (the model's choice, log
entry 11). -/
def Obligations.ImpactsAndTheirEnds : Prop :=
  (∀ (s : State) (m : Nat) (a : Axis), s.awake = true → ∀ e, s.shock.episode = some e →
    ∀ d : DropRecord,
      d = (if e.drop.peak < m then { e.drop with peak := m, axis := a } else e.drop) →
    (s.config.impactThreshold ≤ m → s.shock.state = .falling ∨ s.shock.state = .settling →
      ∃ t x, exec (.motionSample m a) s = .next t ∧ t.shock = { s.shock with
          state := .impact, quiet := 0, episode := some x
          rest := if s.shock.state = .falling then s.shock.rest
            else if 12 ≤ m ∧ m ≤ 20 then s.shock.rest + 1 else 0
          freeFall := if s.shock.state = .falling then s.shock.freeFall
            else if m < s.config.freeFallThreshold then s.shock.freeFall + 1 else 0 } ∧
        x.durationFixed = true ∧ x.checkPending = e.checkPending ∧
        x.drop = { d with
          impactCount := satUp 255 e.drop.impactCount, outcome := .impact
          fallDuration := if e.durationFixed then e.drop.fallDuration
            else (if e.drop.source = .own then s.config.fallTime else 0) + (s.sys.clock - e.fallingAt) } ∧
        (∀ n : Note, n = { target := .all, body := .impact e.drop.count x.drop.impactCount m a } →
          placeNote s.link.queue n ≠ .refused → n ∈ t.link.queue) ∧
        Tells { s with shock := t.shock } t) ∧
    (m < s.config.impactThreshold → s.shock.state = .falling → exec (.motionSample m a) s =
      .next { s with shock := { s.shock with episode := some { e with drop := d } } }) ∧
    (s.shock.state = .impact →
      (s.config.impactThreshold ≤ m → exec (.motionSample m a) s =
        .next { s with shock := { s.shock with quiet := 0, episode := some { e with drop := d } } }) ∧
      (m < s.config.impactThreshold → s.shock.quiet + 1 < 50 → exec (.motionSample m a) s =
        .next { s with shock := { s.shock with
          quiet := s.shock.quiet + 1, episode := some { e with drop := d } } })) ∧
    (s.shock.state = .checking → ∀ run,
      run = (if m < s.config.freeFallThreshold then s.shock.freeFall + 1 else 0) →
      (s.config.impactThreshold ≤ m → exec (.motionSample m a) s = .next { s with shock := { s.shock with
        freeFall := run
        episode := some { e with drop := { d with
          impactCount := satUp 255 e.drop.impactCount, outcome := .impact } } } }) ∧
      (m < s.config.impactThreshold → run < s.config.fallTime → exec (.motionSample m a) s =
        .next { s with shock := { s.shock with freeFall := run, episode := some { e with drop := d } } }))) ∧
  (∀ s : State, s.awake = true →
    (∀ t : State, t = { s with
        shock := { s.shock with state := .settling, quiet := 50, rest := 0, freeFall := 0 }
        link := { s.link with laDrive := false } } →
      (s.shock.state = .impact → exec .impactEnd s = .next t) ∧
      (s.shock.state = .impact → s.shock.quiet = 49 → ∀ m a, m < s.config.impactThreshold →
        exec (.motionSample m a) s = .next { t with shock := { t.shock with episode := s.shock.episode.map fun e =>
          if e.drop.peak < m then { e with drop := { e.drop with peak := m, axis := a } } else e } })) ∧
    (s.shock.state ≠ .impact → exec .impactEnd s = .next s) ∧
    (s.shock.fallWindow = none → exec .fallWindowTimer s = .next s) ∧
    (s.shock.fallWindow ≠ none → s.shock.state ≠ .falling → exec .fallWindowTimer s = .next { s with
      shock := { s.shock with fallWindow := none }, link := { s.link with laDrive := false } }) ∧
    (s.shock.fallWindow ≠ none → s.shock.state = .falling → ∀ e, s.shock.episode = some e → e.durationFixed = false →
      exec .fallWindowTimer s = .next { s with
        shock := { s.shock with
          state := .settling, fallWindow := none, rest := 0, freeFall := 0
          episode := some { e with
            durationFixed := true
            drop := { e.drop with
              fallDuration := if e.drop.source = .own then s.config.fallTime + 1000 else 1000 } } }
        link := { s.link with laDrive := false } }))

/-- The entry to CHECKING (R109, R126), where no CALM is owed: the checking timer starts at 5000 ms, a LID starts its
string test, a BAY its pack check, or takes the one that runs, and a BASE has its result at once, as a BAY has in
FAULTED, FAULT, and without a pack, in EMPTY and in LOST, OK, with its SETTLED (R61, R109, R110); a coordinator that is
open goes to CLOSING with its timer of 3000 ms, and waits while a participant has neither settled nor dropped out; one
that waits for none closes the episode with ALL_SETTLED in the same event (R126, R127). With a CALM owed, the station
returns to CALM in the same event, and a BAY's pack check runs on for the closed record (R111, R113). A sample in
SETTLING below the impact threshold moves the runs and the peak (the model's reading, log entry 43) alone until one of
them is full; the rest run enters CHECKING (R108). That the sample which completes the rest run is the event, and the
row ENTER_CHECKING the same event taken on its own with the run as it stands, is the model's choice (log entry 11). -/
def Obligations.CheckingIsEntered : Prop :=
  (∀ (s : State) (m : Nat) (a : Axis), s.awake = true → s.shock.state = .settling → m < s.config.impactThreshold →
    ∀ e, s.shock.episode = some e → ∀ k : Shock, k = { s.shock with
      rest := if 12 ≤ m ∧ m ≤ 20 then s.shock.rest + 1 else 0
      freeFall := if m < s.config.freeFallThreshold then s.shock.freeFall + 1 else 0
      episode := some (if e.drop.peak < m then { e with drop := { e.drop with peak := m, axis := a } } else e) } →
    k.freeFall < s.config.fallTime →
    (k.rest < 500 → exec (.motionSample m a) s = .next { s with shock := k }) ∧
    (k.rest = 500 → exec (.motionSample m a) s = exec .enterChecking { s with shock := k })) ∧
  (∀ s : State, s.awake = true →
    (s.shock.state ≠ .settling → exec .enterChecking s = .next s) ∧
    (s.shock.state = .settling → ∃ t, exec .enterChecking s = .next t ∧
      t.sys = s.sys ∧ t.pins = s.pins ∧ t.config = s.config ∧ t.flash = s.flash ∧ t.image = s.image ∧
      t.link.peers = s.link.peers ∧
      ((s.coordinates = true ∧ s.coord.state = .opened → s.coord.answered = false) →
        s.shock.calmOwed = false ∨ (s.coordinates = true ∧ s.coord.state = .opened) →
        t.shock.state = .checking ∧ t.shock.checking = some 5000 ∧ t.shock.freeFall = 0 ∧
        t.roster = s.roster ∧ t.shock.count = s.shock.count ∧
        (s.sys.role = .lid → s.supply.test = none →
          ∃ x, t.supply.test = some x ∧ x.trigger = .checking ∧ x.timer = 100) ∧
        (s.sys.role = .bay → s.pins.present = true → s.bay.check = none →
          s.bay.state ≠ .faulted → s.bay.state ≠ .empty → s.bay.state ≠ .lost →
          t.bay = { s.bay with check := some 300, failing := none, checkForRole := true }) ∧
        (s.sys.role = .bay → ∀ u : State, u = { s with shock := { s.shock with
            state := .checking, rest := 500, freeFall := 0, checking := some 5000
            episode := s.shock.episode.map fun e => { e with checkPending := true } } } →
          (s.bay.state = .faulted → t.bay = s.bay ∧ GivesResult u t .fault) ∧
          (s.bay.state ≠ .faulted → s.pins.present = false ∨ s.bay.state = .empty ∨ s.bay.state = .lost →
            t.bay = s.bay ∧ GivesResult u t .ok) ∧
          (s.bay.state ≠ .faulted → s.pins.present = true → s.bay.state ≠ .empty → s.bay.state ≠ .lost →
            s.bay.check ≠ none → t = { u with bay := { s.bay with checkForRole := true } })) ∧
        (s.sys.role = .base → ∀ e, s.shock.episode = some e → t.shock.episode = some { e with
          checkPending := false, drop := { e.drop with checkResult := some .ok } }) ∧
        (s.coordinates = true ∧ s.coord.state = .opened →
          t.coord = { s.coord with state := .closing, closing := some 3000 })) ∧
      (s.coordinates = true → s.coord.state = .opened → s.coord.answered = true → s.lineRests = true →
        ClosesEpisode { s with
          coord := { s.coord with state := .closing, closing := some 3000 }
          shock := { s.shock with
            state := .checking, rest := 500, freeFall := 0, checking := some 5000
            episode := s.shock.episode.map fun e =>
              { e with checkPending := false, drop := { e.drop with checkResult := some .ok } } } } t .allSettled) ∧
      (s.coordinates = false → s.shock.calmOwed = true → s.lineRests = true →
        t.shock.state = .calm ∧ t.shock.episode = none ∧ t.hasCond .episodeEnd = true ∧
        (s.sys.role = .bay → s.pins.present = true → s.bay.state ≠ .faulted → s.bay.state ≠ .empty →
          s.bay.state ≠ .lost → ReturnsToCalm { s with
            bay := { s.bay with
              checkForRole := true, check := if s.bay.check = none then some 300 else s.bay.check
              failing := if s.bay.check = none then none else s.bay.failing }
            shock := { s.shock with
              state := .checking, rest := 500, freeFall := 0, checking := some 5000
              episode := s.shock.episode.map fun e => { e with checkPending := true } } } t .base))))

/-- A CALM note of a reason R128 lists, and the checking timer's expiry, end the episode of a station whose coordinator
does not run (R111 to R113), and its DROP record is handed over, where it awaits no check result (R113, step 3, R117);
in SETTLING a CALM is owed, and elsewhere it has no effect. A BAY then acts on its image, and asks again where its flag
and its lever call for it (R60); a LID lights its zones again (R70). Where TAKEN goes is the model's reading (log entry
14), and RELEASE-ASK goes by R57. That the end of the sender's silence is taken after a note that is no trigger is the
model's reading (log entry 50). -/
def Obligations.CalmEndsAnEpisode : Prop :=
  ∀ s : State,
    (∀ k tgt n reason settled unsettled, reason ≠ .interrupted → s.admits .calm k tgt = true →
      ∀ h : State, h = s.heard k →
      ∀ c, c = .calm k tgt n reason settled unsettled →
      (h.coordinates = true ∨ h.shock.state = .calm ∨ h.shock.state = .falling ∨ h.shock.state = .impact →
        exec c s = .next (s.hears k)) ∧
      (h.coordinates = false → h.shock.state = .settling →
        exec c s = .next (s.attend k { h with shock := { h.shock with calmOwed := true } })) ∧
      (h.coordinates = false → h.shock.state = .checking → ∃ t, exec c s = .next t ∧
        (h.lineRests = true → ReturnsToCalm h t .base) ∧
        (h.lineRests = false → t.shock.state = .falling ∧ t.shock.count = countUp h.shock.count))) ∧
    (s.awake = true →
      (s.shock.state ≠ .checking ∨ s.shock.checking = none → exec .checkingTimer s = .next s) ∧
      (s.shock.state = .checking → s.shock.checking ≠ none → s.coordinates = false ∨ s.coord.state = .calm →
        ∃ t, exec .checkingTimer s = .next t ∧ (s.lineRests = true → ReturnsToCalm s t .timeout)))

/-- An IMPACT note at the coordinator raises its sender's peak (R123); of another station, and elsewhere, it is heard
and no more. That the end of its sender's silence is taken after a note that is no trigger is the model's reading (log
entry 50). -/
def Obligations.ImpactNotesRaiseAPeak : Prop :=
  ∀ (s : State) (k : Station) (tgt : Target) (n impacts m : Nat) (a : Axis), s.admits .impact k tgt = true →
    ∀ h : State, h = s.heard k →
    (h.coordinates = true → h.coord.state ≠ .calm → exec (.impact k tgt n impacts m a) s =
      .next (s.attend k { h with coord := { h.coord with participants := h.coord.participants.map fun p =>
        if p.station = k ∧ p.peak < m then { p with peak := m, axis := a } else p } })) ∧
    ((∀ p ∈ h.coord.participants, p.station ≠ k) ∨ h.coordinates = false ∨ h.coord.state = .calm →
      exec (.impact k tgt n impacts m a) s = .next (s.hears k))

/-- A SETTLED note marks its sender SETTLED with the fields it carries, a participant in its entry and another station
in the extra list; one that is late, or that finds the coordinator CALM, changes nothing (R124). The coordinator closes
by the closing timer, and by the SETTLED that completes the set (R126, R127): the episode state and the station's shock
state return to CALM, EPISODE_END is set, and CALM is handed over in RUNNING with the count of the entries settled and
the stations marked UNSETTLED (R128). A SUSPENDED slot is judged (R41): a taker whose result was FAULT, or that the
close marks UNSETTLED, leaves as a lost taker, and a leaving bay that failed, or the want of cover before LET-GO,
aborts the handover with COVER_LOST; one that stays resumes: in FREEING where LET-GO was sent, and else in SHIFTING
with the test of R32 (R42). The BASE's DROP record is handed over with the summary (R127, step 6, R129). That a
RELEASE-NO of the judgement stands ahead of CALM is the model's reading (log entry 16), and so is that the end of its
sender's silence is taken after a note that is no trigger (log entry 50). -/
def Obligations.SettledNotesCloseTheEpisode : Prop :=
  (∀ (s : State) (k : Station) (tgt : Target) (b : SettledNote), s.admits .settled k tgt = true →
    ∀ h : State, h = s.heard k →
    (h.coordinates = false ∨ h.coord.state = .calm ∨ b.late = true →
      exec (.settled k tgt b) s = .next (s.hears k)) ∧
    (h.coordinates = true → b.late = false → ∀ p : Participant,
      p = { station := k, result := some b.result, peak := b.peak, axis := b.axis, impacts := b.impacts,
            dropped := false, mark := .settled } →
      ∀ c : Coordinator, c = h.coord.take k b →
      ((∃ q ∈ h.coord.participants, q.station = k) → p ∈ c.participants ∧ c.extras = h.coord.extras) ∧
      ((∀ q ∈ h.coord.participants, q.station ≠ k) → p ∈ c.extras ∧ c.participants = h.coord.participants) ∧
      c.state = h.coord.state ∧ c.count = h.coord.count ∧ c.closing = h.coord.closing ∧
      (h.coord.state = .opened ∨ h.coord.state = .closing ∧ c.answered = false →
        exec (.settled k tgt b) s = .next (s.attend k { h with coord := c })))) ∧
  (∀ (s h : State) (c : Instr) (reason : CloseReason),
    (c = .closingTimer ∧ h = s ∧ s.coord.closing ≠ none ∧ reason = .timeout ∨
      (∃ k tgt b, c = .settled k tgt b ∧ s.admits .settled k tgt = true ∧ b.late = false ∧
        ((s.heard k).coord.take k b).answered = true ∧
        h = { s.heard k with coord := (s.heard k).coord.take k b } ∧ reason = .allSettled)) →
    h.coordinates = true → h.coord.state = .closing → h.lineRests = true →
    ∃ t, exec c s = .next t ∧ ClosesEpisode h t reason ∧
      ((∀ j, h.lags j = false) → ∀ sl, h.roster.slot = some sl → sl.phase = .suspended →
        (∀ j, j = sl.leaving ∨ j ∈ sl.takers → ¬ h.coord.Faulted j ∧ ¬ h.coord.GaveUp j) →
        ∀ ends : Prop, (ends ↔ sl.letGoSent = false ∧ sl.drained = true ∧ ∀ j ∈ sl.takers, j ∈ sl.confirmed) →
        (ends → t.roster.slot = some { sl with phase := .freeing, letGoSent := true }) ∧
        (¬ ends → t.roster.slot = some { sl with phase := if sl.letGoSent = true then .freeing else .shifting })))

/-- The PARK line. -/
def Obligations.ParkFollowsTheShockState : Prop :=
  (∀ s : State, s.park = true ↔
    s.awake = true ∧ s.sys.role = .base ∧ s.shock.state ≠ .calm) ∧
  (∀ s : State, s.sys.role = .lid ∨ s.sys.role = .bay ∨ s.sys.phase = .strapFault → s.park = false) ∧
  (∀ s : State, s.stationReset.park = false) ∧
  (∀ (s t : State) role addr, exec (.powerOnReset role addr) s = .next t → t.park = false) ∧
  (∀ s t : State, exec .pinReset s = .next t → t.park = false) ∧
  (∀ (s : State) (reason : CloseReason) (news : Option Station), s.lineRests = true →
    (s.closeEpisode reason news).park = false) ∧
  (∀ s : State, s.awake = true → s.sys.role = .base → s.shock.state = .calm → ∃ t, exec .ownFall s = .next t ∧
    t.park = true)

/-! ### The Record Store and its protection -/

/-- The console's store operations (R152): refused while the slot is BUSY, or by their checks (R153, R160, R161, R163);
taken into the slot to wait while the engine works; and on an idle engine with nothing to place, started at once, those
that take no engine time ending in the same event (R148, R159 to R164). A PROTECT-V whose setting is outside its codes
is refused after the checks (the model's reading, log entry 30). CHECK-STORE is refused BUSY while a stream is in
progress or a record waits (R153), PROTECT-NV by the lock and then by its region (R160); COLLECT is refused by the slot
alone, one of sequence 0 too (the model's choice, log entry 80). That a region under erase keeps its fill offset is the
model's choice (log entry 85). -/
def Obligations.StoreOperationsAreTaken : Prop :=
  (∀ (c : Instr) (op : StoreOp) (k : Station) (tgt : Target) (s : State), storeOpOf c = some (op, k, tgt) →
    s.admitsConsole (storeOpKind op) k tgt = true → ∀ h : State, h = s.heard k →
    (h.store.slot ≠ none → exec c s = .next (h.storeDone (storeOpKind op) (.refused .busy))) ∧
    (h.store.slot = none →
      (∀ reason, h.opRefused op = some reason → exec c s = .next (h.storeDone (storeOpKind op) (.refused reason))) ∧
      (h.opRefused op = none → h.store.engine ≠ .idle → exec c s =
        .next { h with store := { h.store with slot := some { op := op, waiting := true } } }) ∧
      (h.opRefused op = none → h.store.engine = .idle → h.store.suspended = none → h.store.queue = [] →
        ∃ t, exec c s = .next t ∧ Tells { h with store := t.store } t ∧
          (∀ seq, op = .collect seq →
            (h.collectSet seq = [] → t = h.storeDone .collect .done (.count 0)) ∧
            (h.collectSet seq ≠ [] → t = { h with store := { h.store with
              engine := .marks (h.collectSet seq) 0, remaining := (h.collectSet seq).length
              slot := some { op := op, waiting := false } } })) ∧
          (∀ r : Region, op = .eraseRegion r.val → t.store.engine = .erase r .console ∧ t.store.remaining = 400 ∧
            t.store.slot = some { op := op, waiting := false } ∧
            (inRing r = true → t.store.entry r = { state := .erasing, fill := (h.store.entry r).fill }) ∧
            (∀ q : Region, q ≠ r → t.store.entry q = h.store.entry q)) ∧
          (∀ (r : Region) (on : Bool), op = .protectV r.val on → t.store.slot = none ∧ t.store.engine = .idle ∧
            t.store.vFlags.getLsbD r.val = on ∧
            (∀ q : Region, q ≠ r → t.store.vFlags.getLsbD q.val = h.store.vFlags.getLsbD q.val)) ∧
          (∀ r : Region, op = .protectNv r.val →
            (h.flash.nFlags.getLsbD r.val = true → t = h.storeDone .protectNv .done (.region r.val)) ∧
            (h.flash.nFlags.getLsbD r.val = false → t = { h with store := { h.store with
              engine := .flagProgram r, remaining := 1, slot := some { op := op, waiting := false } } })) ∧
          (op = .clearNvAll → t = { h with store := { h.store with
            engine := .flagClear, remaining := 400, slot := some { op := op, waiting := false } } }) ∧
          (op = .lockNv → t = ({ h with store := { h.store with lock := true } } : State).storeDone .lockNv .done) ∧
          (op = .checkStore → t = { h with store := { h.store with
            engine := .check, remaining := 15, slot := some { op := op, waiting := false } } }))) ∧
    (∀ r, h.opRefused (.eraseRegion r) =
      if hr : r < 16 then
        if h.isProtected ⟨r, hr⟩ then some .guarded
        else if inRing ⟨r, hr⟩ = true ∧ r = h.store.openRegion.val ∧ h.store.exhausted = false then some .openRegion
        else if inRing ⟨r, hr⟩ = true ∧ 0 < (h.store.entry ⟨r, hr⟩).uncollected then some .uncollected else none
      else some .badRegion) ∧
    (h.store.lock = true → h.opRefused .clearNvAll = some .locked ∧ ∀ r, h.opRefused (.protectNv r) = some .locked) ∧
    (∀ r, 15 < r → h.opRefused (.protectV r true) = some .badRegion ∧ h.opRefused (.protectV r false) = some .badRegion) ∧
    (∀ r, r < 16 → h.opRefused (.protectV r true) = none ∧ h.opRefused (.protectV r false) = none) ∧
    (h.store.lock = false → h.opRefused .clearNvAll = none ∧
      (∀ r, r < 16 → h.opRefused (.protectNv r) = none) ∧ ∀ r, 15 < r → h.opRefused (.protectNv r) = some .badRegion) ∧
    (h.console.stream ≠ none ∨ h.store.queue ≠ [] → h.opRefused .checkStore = some .busy) ∧
    (h.console.stream = none → h.store.queue = [] → h.opRefused .checkStore = none) ∧
    h.opRefused .lockNv = none ∧ ∀ seq, h.opRefused (.collect seq) = none) ∧
  (∀ (s : State) (k : Station) (tgt : Target) (r n : Nat), s.admitsConsole .protectV k tgt = true → ∀ h : State,
    h = s.heard k → exec (.protectV k tgt r (.bad n)) s = .next (h.storeDone .protectV (.refused
      (if h.store.slot ≠ none then .busy else if 15 < r then .badRegion else .badValue))))

/-- A configuration write, step by step (R165, R166): START is refused by its checks or opens the buffer with 2000 ms,
a SEGMENT that fits joins it, another ends the write, FINISH with a whole and checked record starts the programs on a
free engine, and the write timer's expiry ends the write. A step outside these is refused: BUSY while the slot holds an
operation, BAD_VALUE otherwise (R152, R208; the order is the model's reading, log entry 30). That a write whose
programs run is in a phase of its own, programming, beside RECEIVING and WAITING, is the model's choice (log entry 63).
-/
def Obligations.ConfigurationsAreWrittenInSteps : Prop :=
  ∀ s : State,
    (∀ k tgt, s.admitsConsole .writeConfig k tgt = true → ∀ h : State, h = s.heard k →
      (∀ bytes, formTest bytes = true → noteHeader bytes = some (.writeConfig, k, tgt) →
        exec (.noteGarbled bytes .step) s = .next (h.storeDone .writeConfig (.refused
          (if h.store.slot = none then .badValue else .busy)))) ∧
      (∀ length,
        (h.store.slot ≠ none → exec (.writeConfigStart k tgt length) s =
          .next (h.storeDone .writeConfig (.refused .busy))) ∧
        (h.store.slot = none →
          (h.isProtected 0 = true → exec (.writeConfigStart k tgt length) s =
            .next (h.storeDone .writeConfig (.refused .guarded))) ∧
          (h.isProtected 0 = false → h.store.region0Written = true → exec (.writeConfigStart k tgt length) s =
            .next (h.storeDone .writeConfig (.refused .notBlank))) ∧
          (h.isProtected 0 = false → h.store.region0Written = false →
            (length ≠ 68 → exec (.writeConfigStart k tgt length) s =
              .next (h.storeDone .writeConfig (.refused .badValue))) ∧
            (length = 68 → exec (.writeConfigStart k tgt length) s = .next { h with store := { h.store with
              slot := some { op := .writeConfig, waiting := false }
              configWrite := some { phase := .receiving, expected := 68, segments := [] }
              writeTimer := some 2000 } })))) ∧
      ((∀ w, h.store.configWrite = some w → w.phase ≠ .receiving) →
        (∀ offset bytes, exec (.writeConfigSegment k tgt offset bytes) s = .next h) ∧
        exec (.writeConfigFinish k tgt) s = .next h) ∧
      (∀ w, h.store.configWrite = some w → w.phase = .receiving →
        (∀ offset bytes, ∀ joins : Prop, (joins ↔ offset = w.segments.flatten.length ∧
            offset + bytes.length ≤ w.expected ∧ 1 ≤ bytes.length ∧ bytes.length ≤ 13) →
          (joins → exec (.writeConfigSegment k tgt offset bytes) s = .next { h with store := { h.store with
            configWrite := some { w with segments := w.segments ++ [bytes] }, writeTimer := some 2000 } }) ∧
          (¬ joins → exec (.writeConfigSegment k tgt offset bytes) s =
            .next { h.storeDone .writeConfig (.refused .badValue) with
              store := { h.store with slot := none, configWrite := none, writeTimer := none } })) ∧
        (w.segments.flatten.length < w.expected ∨ endsWithCheck w.segments.flatten = false →
          exec (.writeConfigFinish k tgt) s = .next { h.storeDone .writeConfig (.refused .badValue) with
            store := { h.store with slot := none, configWrite := none, writeTimer := none } }) ∧
        (w.expected ≤ w.segments.flatten.length → endsWithCheck w.segments.flatten = true →
          (h.store.engine ≠ .idle → exec (.writeConfigFinish k tgt) s = .next { h with store := { h.store with
            slot := some { op := .writeConfig, waiting := true }
            configWrite := some { w with phase := .waiting }, writeTimer := none } }) ∧
          (h.store.engine = .idle → h.store.suspended = none → h.store.queue = [] →
            h.isProtected 0 = false → h.store.region0Written = false → exec (.writeConfigFinish k tgt) s =
            .next { h with store := { h.store with
              slot := some { op := .writeConfig, waiting := false }
              configWrite := some { w with phase := .programming }, writeTimer := none
              engine := .configProgram 0 w.segments 0, remaining := w.segments.length
              region0Written := true } })))) ∧
    (∀ w, s.running = true → s.store.writeTimer ≠ none → s.store.configWrite = some w → w.phase = .receiving →
      exec .writeTimer s = .next { s.storeDone .writeConfig (.refused .timeout) with
        store := { s.store with slot := none, configWrite := none, writeTimer := none } })

/-- What the ends of the engine's operations leave in the flash (R137, R142, R144, R148, R160, R161, R166): the bytes
programmed where they were erased, a region of erased bytes, a collected mark, an N flag or none, and every other byte
as it stood. The STORE-DONE of CHECK-STORE carries the log's good and bad records and the state of the configuration
record (R153), which is told by its check alone (the model's reading, log entry 31). -/
def Obligations.EngineWorkReachesTheFlash : Prop :=
  ∀ s : State, s.awake = true → s.flash.wf = true →
    (∀ r off bytes seq drop, s.store.engine = .program r off bytes seq drop → ∃ t, exec .recordProgramDone s = .next t ∧
      ((∀ i, i < bytes.length → flashByte s.flash.cells (r.val * 4096 + off + i) = 255#8) →
        flashRead t.flash.cells (r.val * 4096 + off) bytes.length = bytes) ∧
      (∀ a, a < r.val * 4096 + off ∨ r.val * 4096 + off + bytes.length ≤ a →
        flashByte t.flash.cells a = flashByte s.flash.cells a) ∧
      t.flash.nFlags = s.flash.nFlags ∧ Tells { s with flash := t.flash, store := t.store } t ∧
      (s.store.queue = [] → s.store.waitingOp = none → s.store.suspended = none → seq ≠ 4294967295 → ∀ e,
        e = s.store.entry r →
        t.store = { s.store with
          engine := .idle, remaining := 0
          regions := s.store.regions.set r { e with
            state := .written, fill := off + bytes.length, first := some (e.first.getD seq), last := some seq
            good := e.good + 1, uncollected := e.uncollected + (if drop then 1 else 0) } })) ∧
    (∀ r cause, s.store.engine = .erase r cause → ∃ t, exec .regionEraseDone s = .next t ∧
      (∀ a, a / 4096 = r.val → flashByte t.flash.cells a = 255#8) ∧
      (∀ a, a / 4096 ≠ r.val → flashByte t.flash.cells a = flashByte s.flash.cells a) ∧
      t.flash.nFlags = s.flash.nFlags ∧ Tells { s with flash := t.flash, store := t.store } t ∧
      (s.store.queue = [] → s.store.suspended = none → cause = .console ∨ s.store.waitingOp = none →
        t.store.engine = .idle ∧ (inRing r = true → t.store.entry r = {}) ∧
        (r = 0 → t.store.region0Written = false) ∧ (cause = .console → t.store.slot = none) ∧
        (cause = .ring → t.store.openRegion = r))) ∧
    (∀ a todo n, s.store.engine = .marks (a :: todo) n → ∃ t, exec .collectMarkDone s = .next t ∧
      flashByte t.flash.cells a = flashByte s.flash.cells a &&& 127#8 ∧
      (∀ b, b ≠ a → flashByte t.flash.cells b = flashByte s.flash.cells b) ∧
      t.flash.nFlags = s.flash.nFlags ∧ Tells { s with flash := t.flash, store := t.store } t ∧
      (todo ≠ [] → t.store.engine = .marks todo (n + 1) ∧ t.store.slot = s.store.slot) ∧
      (todo = [] → t.store.slot = none ∧ (s.running = true → roomOrdinary s.link.queue = true →
        { target := .station 0, body := .storeDone .collect .done (.count (n + 1)) } ∈ t.link.queue))) ∧
    (∀ r : Region, s.store.engine = .flagProgram r → ∃ t, exec .flagProgramDone s = .next t ∧
      t.flash.cells = s.flash.cells ∧ t.flash.nFlags.getLsbD r.val = true ∧
      (∀ q : Region, q ≠ r → t.flash.nFlags.getLsbD q.val = s.flash.nFlags.getLsbD q.val) ∧
      t.store.slot = none ∧ Tells { s with flash := t.flash, store := t.store } t) ∧
    (s.store.engine = .flagClear → ∃ t, exec .flagClearDone s = .next t ∧
      t.flash = { s.flash with nFlags := 0 } ∧ t.store.slot = none ∧
      Tells { s with flash := t.flash, store := t.store } t ∧
      (s.running = true → roomOrdinary s.link.queue = true → ∀ n : Note,
        n = { target := .station 0, body := .storeDone .clearNvAll .done (.count (flagCount s.flash.nFlags)) } →
        n ∈ t.link.queue)) ∧
    (∀ off seg todo n, s.store.engine = .configProgram off (seg :: todo) n → ∃ t, exec .configProgramDone s = .next t ∧
      ((∀ i, i < seg.length → flashByte s.flash.cells (off + i) = 255#8) →
        flashRead t.flash.cells off seg.length = seg) ∧
      (∀ a, a < off ∨ off + seg.length ≤ a → flashByte t.flash.cells a = flashByte s.flash.cells a) ∧
      t.flash.nFlags = s.flash.nFlags ∧ Tells { s with flash := t.flash, store := t.store } t ∧
      (todo ≠ [] → t.store.engine = .configProgram (off + seg.length) todo (n + 1) ∧
        t.store.configWrite = s.store.configWrite) ∧
      (todo = [] → t.store.slot = none ∧ t.store.configWrite = none)) ∧
    (s.store.engine = .check → ∃ t, exec .storeCheckDone s = .next t ∧ t.flash = s.flash ∧ t.store.slot = none ∧
      Tells { s with store := t.store } t ∧
      (s.store.queue = [] → s.store.suspended = none → t.store.engine = .idle ∧
        ∀ r : Region, inRing r = true → (s.store.entry r).state = .written →
          (t.store.entry r).good = (scanRegion s.flash.cells r).good ∧
          (t.store.entry r).bad = (scanRegion s.flash.cells r).bad) ∧
      (s.running = true → roomOrdinary s.link.queue = true → ∀ sum : (RegionEntry → Nat) → Nat,
        (∀ f, sum f = (ringRegions.map fun r => f (if (s.store.entry r).state = .written then scanRegion s.flash.cells r
          else s.store.entry r)).sum) →
        { target := .station 0, body := .storeDone .checkStore .done (.check (sum RegionEntry.good)
          (sum RegionEntry.bad) (if s.store.region0Written = false then .blank
            else if endsWithCheck (flashRead s.flash.cells 0 68) = true then .good else .bad)) } ∈ t.link.queue))

/-- HOLD protects regions 0 and 15 while it is low, and no region by itself while it is high (R157, R158); its fall
abandons a configuration write, and a console erase of region 0 or 15, which leaves the other regions' bytes as they
were, region 0 without a whole configuration record and region 15 not blank (R164, R166), and no other change of it
does more than that. A suspended erase is abandoned like one in progress, and the engine's own work goes on (R164); a
write abandoned in its programs leaves every byte outside the segment in hand as it was, and region 0 not blank and its
check bad (R166). What else stands in a region whose erase is cut, and in the segment, is free (log entry 5). -/
def Obligations.HoldProtectsItsRegions : Prop :=
  ∀ (s : State) (high : Bool), ∃ t, exec (.holdChange high) s = .next t ∧ t.pins = { s.pins with hold := high } ∧
    (∀ r : Region, t.isProtected r = true ↔ t.store.vFlags.getLsbD r.val = true ∨ t.flash.nFlags.getLsbD r.val = true ∨
      (high = false ∧ (r = 0 ∨ r = 15))) ∧
    t.flash.nFlags = s.flash.nFlags ∧
    (high = true ∨ s.pins.hold = false ∨ s.awake = false ∨
      (s.store.configWrite = none ∧ s.store.suspended = none ∧
        ∀ r cause, s.store.engine = .erase r cause → cause = .ring ∨ inRing r = true) →
      t = { s with pins := t.pins }) ∧
    (high = false → s.pins.hold = true → s.awake = true →
      (s.store.configWrite ≠ none → t.store.configWrite = none ∧ t.store.slot = none ∧ t.store.writeTimer = none ∧
        ((∀ off todo n, s.store.engine ≠ .configProgram off todo n) → t.flash = s.flash) ∧
        (∀ off seg todo n, s.store.engine = .configProgram off (seg :: todo) n → s.flash.wf = true → seg ≠ [] →
          off + seg.length ≤ 68 →
          (∀ a, a < off ∨ off + seg.length ≤ a → flashByte t.flash.cells a = flashByte s.flash.cells a) ∧
          regionErased t.flash.cells 0 = false ∧ endsWithCheck (flashRead t.flash.cells 0 68) = false)) ∧
      (∀ r : Region, r = 0 ∨ r = 15 → s.store.configWrite = none →
        (s.store.engine = .erase r .console ∨ (∀ q cause, s.store.engine ≠ .erase q cause) ∧
          ∃ e, s.store.suspended = some e ∧ e.region = r ∧ e.cause = .console) →
        ((∀ q cause, s.store.engine ≠ .erase q cause) →
          t.store.suspended = none ∧ t.store.engine = s.store.engine) ∧
        t.store.slot = none ∧ (r = 0 → t.store.region0Written = true) ∧
        (∀ a, a / 4096 ≠ r.val → flashByte t.flash.cells a = flashByte s.flash.cells a) ∧
        (s.flash.wf = true → (r = 0 → endsWithCheck (flashRead t.flash.cells 0 68) = false) ∧
          (r = 15 → regionErased t.flash.cells 15 = false)) ∧
        (s.running = true → roomOrdinary s.link.queue = true → ∀ n : Note,
          n = { target := .station 0, body := .storeDone .eraseRegion (.refused .guarded) .none } →
          n ∈ t.link.queue)))

/-- A record handed over while the engine works, and no erase is under way, joins the write queue by the table of R141;
an idle engine takes its next work at once (R139). It places the head of the queue: in the open region, where the
record fits behind the fill offset, with the sequence behind the newest and the header and check formed (R140, R142);
else in the region the ring advance chooses, which is the first behind the open one in ring order that is not
protected, not ERASING and free of uncollected DROPs: opened where it is BLANK, erased where it is WRITTEN or not
wholly erased (R143, R149; that the latter becomes WRITTEN at the read is the model's reading, log entry 20). Where
nothing can be chosen the log is blocked and LOG_FULL set, and at its highest sequence it takes no record at all
(R146). A DROP that can be programmed during an erase suspends it, and the erase resumes with the time it kept (R145).
The bytes of a body, at most 26, are free (log entry 3). That a record's seconds are the clock's without a bound, of
which its header takes the low 32 bits, is the model's choice (log entry 61). -/
def Obligations.RecordsQueueAndTheRingSpares : Prop :=
  (∀ (s : State) (c : RecordContent), s.awake = true → s.store.engine ≠ .idle →
    (∀ r cause, s.store.engine ≠ .erase r cause) → ∀ e : QueueEntry, e = s.queueEntry c →
    e.seconds = s.sys.clock / 1000 ∧ e.body.length ≤ 26 ∧
    (c.isDrop = false → ordinaryRecords s.store.queue < 6 ∧ s.store.queue.length < 8 →
      s.hand c = { s with store := { s.store with queue := s.store.queue ++ [e] } }) ∧
    (c.isDrop = false → ¬ (ordinaryRecords s.store.queue < 6 ∧ s.store.queue.length < 8) →
      s.hand c = s.setCond .logOverrun) ∧
    (c.isDrop = true → s.store.queue.length < 8 → s.hand c = { s with store := { s.store with
      queue := s.store.queue.filter QueueEntry.isDrop ++ e :: s.store.queue.filter fun f => !f.isDrop } }) ∧
    (c.isDrop = true → RecordLaw s.store.queue → s.store.queue.length = 8 →
      ((∃ f ∈ s.store.queue, f.isDrop = false) → (s.hand c).hasCond .logOverrun = true ∧
        (s.hand c).store.queue = s.store.queue.filter QueueEntry.isDrop ++
          e :: (s.store.queue.filter fun f => !f.isDrop).dropLast) ∧
      ((∀ f ∈ s.store.queue, f.isDrop = true) → s.hand c = s.setCond .dropLost))) ∧
  (∀ (s : State) (r : Region), inRing s.store.openRegion = true → s.ringChoice = some r →
    inRing r = true ∧ r ≠ s.store.openRegion ∧ s.isProtected r = false ∧ (s.store.entry r).uncollected = 0 ∧
      (s.store.entry r).state ≠ .erasing) ∧
  (∀ s : State, inRing s.store.openRegion = true → ∀ passed : Region → Prop,
    (∀ r, passed r ↔ s.isProtected r = true ∨ 0 < (s.store.entry r).uncollected ∨ (s.store.entry r).state = .erasing) →
    (∀ r, s.ringChoice = some r ↔ ∃ k < 13, r.val = (s.store.openRegion.val + k) % 14 + 1 ∧ ¬ passed r ∧
      ∀ j < k, ∀ q : Region, q.val = (s.store.openRegion.val + j) % 14 + 1 → passed q) ∧
    (s.ringChoice = none ↔ ∀ q, inRing q = true → q ≠ s.store.openRegion → passed q)) ∧
  (∀ (s : State) (c : RecordContent), s.awake = true → s.store.engine = .idle → s.store.queue.length < 8 →
    ∀ e : QueueEntry, e = s.queueEntry c →
    (c.isDrop = false → ordinaryRecords s.store.queue < 6 →
      s.hand c = ({ s with store := { s.store with queue := s.store.queue ++ [e] } } : State).engineNext) ∧
    (c.isDrop = true → s.hand c = ({ s with store := { s.store with
      queue := s.store.queue.filter QueueEntry.isDrop ++ e :: s.store.queue.filter fun f => !f.isDrop } } :
        State).engineNext)) ∧
  (∀ (s : State) (e : QueueEntry) (rest : List QueueEntry) (o : Region) (room : Prop)
      (programmed : Region → Nat → Store → Store), o = s.store.openRegion →
    (room ↔ (s.store.entry o).fill + (14 + e.body.length) ≤ 4096) →
    (∀ r off st, programmed r off st = { st with
      queue := rest
      engine := .program r off (recordBytes e.content.kindCode (s.store.newest.getD 0 + 1) s.store.startCount e.seconds
        e.body) (s.store.newest.getD 0 + 1) e.isDrop
      remaining := 1 }) →
    s.store.exhausted = false →
    (s.store.engine = .idle → s.store.suspended = none → s.store.queue = e :: rest →
      e.isDrop = true ∨ s.store.waitingOp = none →
      (room → s.engineNext = { s with store := programmed o (s.store.entry o).fill s.store }) ∧
      (¬ room → s.store.blocked = false →
        (s.ringChoice = none → s.store.waitingOp = none → s.engineNext.hasCond .logFull = true ∧
          s.engineNext = ({ s with store := { s.store with blocked := true } } : State).setCond .logFull) ∧
        (∀ r, s.ringChoice = some r →
          ((s.store.entry r).state = .blank → regionErased s.flash.cells r = true → s.engineNext =
            { s with store := programmed r 0 { s.store with
              regions := s.store.regions.set r { s.store.entry r with fill := 0 }, openRegion := r } }) ∧
          ((s.store.entry r).state = .written ∨ regionErased s.flash.cells r = false →
            ∀ t, t = s.engineNext → t = { s with store := t.store, console := t.console } ∧
              (s.console.stream = none → t.console = s.console) ∧
              t.store = { s.store with regions := t.store.regions, engine := .erase r .ring, remaining := 400 } ∧
              t.store.entry r = { state := .erasing, fill := (t.store.entry r).fill } ∧
              ∀ q : Region, q ≠ r → t.store.entry q = s.store.entry q))) ∧
      (¬ room → s.store.blocked = true → s.store.waitingOp = none → s.engineNext = s)) ∧
    (∀ (q : Region) (cause : EraseCause) (c : RecordContent), s.awake = true → s.store.engine = .erase q cause →
      0 < s.store.remaining → c.isDrop = true → e = s.queueEntry c → rest = s.store.queue →
      (∀ f ∈ rest, f.isDrop = false) → rest.length < 8 → ∀ suspended : Store → Store,
      (∀ st, suspended st = { st with
        suspended := some { region := q, cause := cause, remaining := s.store.remaining } }) →
      (room → s.hand c = { s with store := suspended (programmed o (s.store.entry o).fill s.store) }) ∧
      (¬ room → cause = .ring ∨ s.ringChoice = none ∨
          (∃ r, s.ringChoice = some r ∧ (s.store.entry r).state = .written) →
        s.hand c = { s with store := { s.store with queue := e :: rest } }) ∧
      (¬ room → cause = .console → ∀ r, s.ringChoice = some r → (s.store.entry r).state = .blank →
        regionErased s.flash.cells r = true → s.hand c = { s with store := suspended (programmed r 0 { s.store with
          regions := s.store.regions.set r { s.store.entry r with fill := 0 }, openRegion := r, blocked := false }) }))) ∧
  (∀ s : State, s.store.exhausted = true → s.store.engine = .idle → s.store.suspended = none →
    s.store.waitingOp = none → s.engineNext = s) ∧
  (∀ (s : State) (r : Region) (off : Nat) (bytes : List Byte) (seq : Nat) (drop : Bool) (x : SuspendedErase),
    s.awake = true → s.store.engine = .program r off bytes seq drop → s.store.suspended = some x →
    (∀ f ∈ s.store.queue.head?, f.isDrop = false) → ∃ t, exec .recordProgramDone s = .next t ∧
      t.store.engine = .erase x.region x.cause ∧ t.store.remaining = x.remaining ∧ t.store.suspended = none ∧
      t.store.queue = s.store.queue)

/-- The bytes that the formats lay out pass the tests of the formats: a note its form test (R171, R206), a log record
its check, its sequence readable, with its collected mark absent or programmed alike (R140, R205, R210). -/
def Obligations.FormedBytesPassTheirTests : Prop :=
  (∀ (k : Kind) (sender : Station) (target : Target) (payload : List Byte), payload.length ≤ 16 →
    payloadOk k payload = true → formTest (noteBytes k sender target payload) = true) ∧
  (∀ (kind sequence startCount seconds : Nat) (body : List Byte), 1 ≤ kind → kind ≤ 6 → sequence < 4294967296 →
    body.length ≤ 26 → ∀ b : List Byte, b = recordBytes kind sequence startCount seconds body →
    b.length = 14 + body.length ∧ recordGood b = true ∧ recordKind b = kind ∧ recordSequence b = sequence ∧
      markAbsent b = true ∧ headerOk (byteAt b 0) (byteAt b 1) = true ∧
      ∀ m : List Byte, m = ((b.headD 0) &&& 127#8) :: b.tail →
        recordGood m = true ∧ recordKind m = kind ∧ recordSequence m = sequence ∧ markAbsent m = false)

/-! ### The Console Service -/

/-- The console's queries (R192 to R194): the checks in their order, the read of region 15 that waits for an erase
(R147), and the REPLY with the up to 12 bytes of the part asked for, cut in order from the topic's content, which
changes nothing else; a topic outside its values is refused BAD_VALUE first, in a REPLY that carries the topic asked,
where the row that brings such an ASK, and the 0 as its number of parts, are the model's choice (log entry 28). The
content of ROSTER is the record in the form of R207 and the slot and wait list (R1, R193), that of IDENTITY the bytes
of region 15; the bytes of the other topics, and their number of parts of at least the fewest that hold their fields,
are free (the model's choice, log entries 4 and 29). A content fits its parts, so that the console can read the whole
of it. In LISTEN no console note is taken. -/
def Obligations.QueriesAreAnswered : Prop :=
  (∀ (c : Instr) (topic : Topic) (k : Station) (tgt : Target) (i n : Nat) (s : State),
    topicOf c = some (topic, k, tgt, i, n) → s.admitsConsole .ask k tgt = true → ∀ h : State, h = s.heard k →
    ∀ (parts : Nat) (answer : AskAnswer → State), parts = partsOf topic h.sys.role →
      (∀ a, answer a = h.sendTo 0 (.ask (.val topic) i n parts a)) →
    (topic = .roster ∧ h.sys.role ≠ .base ∨ topic = .zones ∧ h.sys.role ≠ .lid →
      exec c s = .next (answer (.refused .notRole))) ∧
    ((topic = .roster → h.sys.role = .base) → (topic = .zones → h.sys.role = .lid) →
      (topic = .peers ∧ 8 ≤ i ∨ topic = .zones ∧ 6 ≤ i ∨ parts ≤ n →
        exec c s = .next (answer (.refused .badValue))) ∧
      (¬ (topic = .peers ∧ 8 ≤ i ∨ topic = .zones ∧ 6 ≤ i ∨ parts ≤ n) →
        (topic = .identity → h.store.bankBusy 1 = true → exec c s =
          .next { h with console := { h.console with asksWaiting := h.console.asksWaiting ++ [(i, n)] } }) ∧
        (topic ≠ .identity ∨ h.store.bankBusy 1 = false → exec c s = .next (answer (.done
          (((contentBytes parts (h.contentOf topic i)).drop (12 * n)).take 12))))))) ∧
  (∀ (s : State) (k : Station) (tgt : Target), s.admitsConsole .ask k tgt = true → ∀ h : State, h = s.heard k →
    ∀ bytes code i n, formTest bytes = true → noteHeader bytes = some (.ask, k, tgt) →
    exec (.noteGarbled bytes (.topic code i n)) s =
      .next (h.sendTo 0 (.ask (.bad code) i n 0 (.refused .badValue)))) ∧
  (∀ role : Role, partsOf .identity role = 1 ∧ 2 ≤ partsOf .roster role ∧
    ∀ topic, 1 ≤ partsOf topic role ∧ partsOf topic role ≤ 16) ∧
  (∀ (r : Roster) (slot : Option Slot) (waiting : List Waiter) (region : List Byte) (parts : Nat),
    contentBytes parts (.roster r slot waiting) =
      rosterPayload r ++ (Config.slotBytes slot waiting).take (12 * parts - (rosterPayload r).length) ∧
    contentBytes parts (.identity region) = region) ∧
  (∀ (s : State) (topic : Topic) (i parts : Nat), s.roster.record.entries.length ≤ 3 →
    parts = partsOf topic s.sys.role → (contentBytes parts (s.contentOf topic i)).length ≤ 12 * parts) ∧
  (∀ (s : State) (i : Nat), s.contentOf .status i = .status s.statusContent ∧
    s.contentOf .roster i = .roster (if s.link.deferred then { s.roster.record with version := 0 } else s.roster.record)
      s.roster.slot s.roster.waitList ∧
    (∀ h8 : i < 8, s.contentOf .peers i = .peer (s.peer ⟨i, h8⟩)) ∧
    (∀ h6 : i < 6, s.contentOf .zones i = .zone (s.zoneContent ⟨i, h6⟩)) ∧
    s.contentOf .episode i = .episode s.episodeContent ∧
    s.contentOf .conditions i = .conditions s.console.conditions s.console.mask s.console.inhibited
      s.console.stream.isSome (s.peer 0).silent ∧
    s.contentOf .guard i = .guard s.link.capture s.link.violations s.link.overflow ∧
    s.contentOf .identity i = .identity (flashRead s.flash.cells (15 * 4096 + 12 * i) 12)) ∧
  (∀ (c : Instr) (kind : Kind) (k : Station) (tgt : Target) (s : State), noteOf c = some (kind, k, tgt) →
    consoleKind kind = true → s.admits kind k tgt = true → s.sys.phase = .listen → exec c s = .next (s.heard k))

/-- SET-MASK replaces the mask whole; ATTENTION-RESUME removes what it carries, empties the capture where it removes
ACCEPT_VIOLATION, and re-arms the station; both are answered DONE, and the attention test is made behind the REPLY:
where it is met and the queue has room, an ATTENTION with the set that remains, the mask and the role stands behind it,
and inhibits the next (R185, R189 to R191). RELEASE-BAY asks as the lever would, with origin CONSOLE (R57), and
RESET-STATION owes a station reset that waits for its REPLY to be sent (R195), which is handed over again where it was
displaced. What is refused changes nothing but its reply. The values of a reset that no table gives are the model's
choice (log entry 26). That a RESET-STATION is ignored while a reset is owed also where the shock state is not CALM is
the model's choice (log entry 82). -/
def Obligations.TheConsoleCommandsAStation : Prop :=
  (∀ (s : State) (k : Station) (tgt : Target), ∀ h : State, h = s.heard k →
    (s.admitsConsole .setMask k tgt = true → ∀ mask, ∃ t, exec (.setMask k tgt mask) s = .next t ∧
      t.console.mask = mask ∧ Tells h t ∧
      AnswersAndTests { h with console := { h.console with mask := mask } } t
        { target := .station 0, body := .reply .setMask .done .none } ∧
      (roomOrdinary h.link.queue = true →
        { target := .station 0, body := .reply .setMask .done .none } ∈ t.link.queue)) ∧
    (s.admitsConsole .attentionResume k tgt = true → ∀ clear, ∃ t,
      exec (.attentionResume k tgt clear) s = .next t ∧ t.console.mask = h.console.mask ∧
      (∀ c : Condition, clear.has c.bit = false → h.hasCond c = true → t.hasCond c = true) ∧
      (∀ c : Condition, clear.has c.bit = true → t.hasCond c = true → c = .linkOverrun) ∧
      (h.hasCond .acceptViolation = true → clear.has Condition.acceptViolation.bit = true →
        t.link = { h.link with queue := t.link.queue, capture := none, violations := 0, overflow := false }) ∧
      (h.hasCond .acceptViolation = false ∨ clear.has Condition.acceptViolation.bit = false →
        t.link = { h.link with queue := t.link.queue }) ∧
      (roomOrdinary h.link.queue = true →
        { target := .station 0, body := .reply .attentionResume .done (.remaining (h.console.conditions &&& ~~~clear)) }
          ∈ t.link.queue) ∧
      (t.console.inhibited = true → ∃ x ∈ t.link.queue, x.kind = .attention) ∧
      (∀ u : State, u.console = { h.console with
          conditions := h.console.conditions &&& ~~~clear, inhibited := false } →
        u.link = { t.link with queue := h.link.queue } → u = { h with console := u.console, link := u.link } →
        ∀ n : Note, n = { target := .station 0, body := .reply .attentionResume .done (.remaining u.console.conditions) } →
          AnswersAndTests u t n) ∧
      t = { h with link := t.link, console := t.console })) ∧
  ((∀ (s : State) (k : Station) (tgt : Target), ∀ h : State, h = s.heard k →
    (s.admitsConsole .releaseBay k tgt = true →
      (h.sys.role ≠ .bay → exec (.releaseBay k tgt) s = .next (h.refuse .releaseBay .notRole)) ∧
      (h.sys.role = .bay →
        (h.bay.ask = .none → h.bay.state = .seated ∨ h.bay.state = .ready ∨ h.bay.state = .carrying ∨
            h.bay.state = .faulted → exec (.releaseBay k tgt) s =
          .next ((({ h with bay := { h.bay with ask := .asked, origin := .console, answer := some 1000 } } : State).sendBase
            (.releaseAsk .console)).reply .releaseBay .done)) ∧
        (h.bay.ask ≠ .none ∨ h.bay.state = .releasing →
          exec (.releaseBay k tgt) s = .next (h.refuse .releaseBay .busy)) ∧
        (h.bay.ask = .none → h.bay.state = .empty ∨ h.bay.state = .freed ∨ h.bay.state = .lost →
          exec (.releaseBay k tgt) s = .next (h.refuse .releaseBay .state)))) ∧
    (s.admitsConsole .resetStation k tgt = true → ∀ n : Note,
      n = { target := .station 0, body := .reply .resetStation .done .none } →
      (h.console.resetOwed = true → exec (.resetStation k tgt) s = .next h) ∧
      (h.console.resetOwed = false →
        (h.shock.state ≠ .calm → exec (.resetStation k tgt) s = .next (h.refuse .resetStation .held)) ∧
        (h.shock.state = .calm → roomOrdinary h.link.queue = true → exec (.resetStation k tgt) s =
          .next { h with
            link := { h.link with queue := h.link.queue ++ [n] }, console := { h.console with resetOwed := true } }) ∧
        (h.shock.state = .calm → roomOrdinary h.link.queue = false → ∃ t, exec (.resetStation k tgt) s = .next t ∧
          AtReset t (h.bay.path && h.pins.strappedBay) ∧ StrapsRead t .station)))) ∧
  (∀ (s : State), s.running = true → s.console.resetOwed = true → s.console.resetReplyLost = true →
    (roomOrdinary s.link.queue = true → exec .resetReplyRequeue s = .next { s with
      link := { s.link with queue := s.link.queue ++
        [{ target := .station 0, body := .reply .resetStation .done .none }] }
      console := { s.console with resetReplyLost := false } }) ∧
    (roomOrdinary s.link.queue = false → exec .resetReplyRequeue s = .next s)))

/-- The log stream (R196 to R199): READ-LOG's checks and the stream it opens, STOP-STREAM, the SEG notes of the record
in hand, 14 bytes each, with the counts at the last of them, and the STREAM-END of a stream that has ended, with the
attention test behind it (R190, R198). STOP-STREAM finds no stream in progress once the last SEG of the final record is
queued (R199). The stream takes the records in log order (R147): it begins at the log's first good record, or at the
first good one of a sequence or above; it reads the record at its next position whole, waiting while an erase of that
bank is in progress or suspended; and behind the last SEG of a record that does not end it, its next position moves to
the record after it. A SEG or a STREAM-END that an urgent note displaces is handed again when there is room (R197,
R198), and the start of an erase that takes a record still to be sent ends the stream OVERTAKEN (R144, R199). That the
start position is found at acceptance, and that STOP-STREAM leaves a stream which owes another outcome, is the model's
reading (log entry 18); so is the place of a region of bad records alone (log entry 19). That an owed outcome holds
back a displaced SEG too (log entry 83), and that a stream whose COUNT outlasts the log waits behind its last record
for one yet to come (log entry 62), is its choice. -/
def Obligations.TheLogStreamRuns : Prop :=
  (∀ (s : State) (k : Station) (tgt : Target) (tag : Nat), ∀ h : State, h = s.heard k →
    (s.admitsConsole .readLog k tgt = true → ∀ start stop check,
      ((∃ n, start = .bad n) ∨ (∃ n, stop = .bad n) ∨ (∃ n, check = .bad n) ∨ stop = .val (.count 0) →
        exec (.readLog k tgt tag start stop check) s = .next (h.refuse .readLog .badValue (.tag tag))) ∧
      (∀ x y z, start = .val x → stop = .val y → check = .val z → y ≠ .count 0 →
        (h.console.stream ≠ none ∨ h.store.slot ≠ none → exec (.readLog k tgt tag start stop check) s =
          .next (h.refuse .readLog .busy (.tag tag))) ∧
        (h.console.stream = none → h.store.slot = none →
          (h.shock.state ≠ .calm → exec (.readLog k tgt tag start stop check) s =
            .next (h.refuse .readLog .held (.tag tag))) ∧
          (h.shock.state = .calm → ∃ st, exec (.readLog k tgt tag start stop check) s = .next { h with
              console := { h.console with serial := h.console.serial + 1, stream := some st } } ∧
            st = { serial := h.console.serial + 1, tag := tag, next := h.startPosition x, last := none,
                   limit := match y with
                     | .toNewest => .toNewest (h.store.newest.getD 0)
                     | .count n => .count n
                   checkStop := z, inHand := none, again := [], queued := 0, sent := 0, bad := 0,
                   lastSequence := none, ending := if h.startPosition x = none then some .empty else none })))) ∧
    (s.admitsConsole .stopStream k tgt = true →
      (∀ st, h.console.stream = some st → st.tag = tag → st.ending ≠ some .complete → st.ending ≠ some .badStop →
        exec (.stopStream k tgt tag) s = .next { h with console := { h.console with
          stream := some (if st.ending = none then { st with ending := some .cut, inHand := none } else st) } }) ∧
      ((∀ st, h.console.stream = some st →
          st.tag ≠ tag ∨ st.ending = some .complete ∨ st.ending = some .badStop) →
        exec (.stopStream k tgt tag) s = .next (h.refuse .stopStream .state)))) ∧
  (∀ (s : State) (st : Stream), s.running = true → s.console.stream = some st →
    (st.ending = none → st.again = [] → ∀ hand, st.inHand = some hand → st.queued < 2 →
      roomOrdinary s.link.queue = true → ∃ t st', exec .streamAdvance s = .next t ∧ t.console.stream = some st' ∧
      (∀ g : SegNote,
        g = { stream := st.serial, tag := st.tag, recordFirst := hand.index == 0
              recordLast := decide (hand.bytes.length ≤ 14 * (hand.index + 1)), badCheck := !recordGood hand.bytes
              bytes := (hand.bytes.drop (14 * hand.index)).take 14 } →
        t.link.queue = s.link.queue ++ [{ target := .station 0, body := .seg g }]) ∧
      st'.queued = st.queued + 1 ∧ st'.tag = st.tag ∧
      (14 * (hand.index + 1) < hand.bytes.length →
        st' = { st with queued := st.queued + 1, inHand := some { hand with index := hand.index + 1 } }) ∧
      (hand.bytes.length ≤ 14 * (hand.index + 1) → st'.inHand = none ∧ st'.sent = satUp 65535 st.sent ∧
        (recordGood hand.bytes = true → st'.bad = st.bad ∧ st'.lastSequence = some (recordSequence hand.bytes)) ∧
        (recordGood hand.bytes = false → st'.bad = satUp 65535 st.bad ∧ st'.lastSequence = st.lastSequence ∧
          (st.checkStop = true → st'.ending = some .badStop)) ∧
        (recordGood hand.bytes = true ∨ st.checkStop = false →
          st.limit = .count 1 ∨ recordGood hand.bytes = true ∧ st.limit = .toNewest (recordSequence hand.bytes) →
          st'.ending = some .complete) ∧
        (¬ st.EndsWith 0 hand.bytes → st'.ending = none ∧ st'.last = st.next ∧
          (∀ n, st.limit = .count n → st'.limit = .count (n - 1)) ∧
          (∀ e, st.limit = .toNewest e → st'.limit = st.limit) ∧
          ∀ p b before rest, st.next = some p → s.logRecords = before ++ (p, b) :: rest → (∀ x ∈ before, x.1 ≠ p) →
            st'.next = rest.head?.map Prod.fst)) ∧
      t = { s with link := { s.link with queue := t.link.queue }, console := t.console }) ∧
    (st.ending = none → st.again = [] → st.inHand = none →
      (s.streamNext st = none → exec .streamAdvance s = .next s) ∧
      ∀ p, s.streamNext st = some p → ∀ busy : Prop,
        (busy ↔ (∃ r cause, s.store.engine = .erase r cause ∧ r.val / 8 = p.region.val / 8) ∨
          ∃ e, s.store.suspended = some e ∧ e.region.val / 8 = p.region.val / 8) →
        (busy ∨ (∀ b, (p, b) ∉ s.logRecords) → exec .streamAdvance s = .next s) ∧
        (¬ busy → ∀ b, (p, b) ∈ s.logRecords → exec .streamAdvance s = exec .streamAdvance { s with
          console := { s.console with stream := some { st with
            next := some p, inHand := some { bytes := b, index := 0 } } } })) ∧
    (st.ending = none → ∀ g rest, st.again = g :: rest → st.queued < 2 → roomOrdinary s.link.queue = true →
      exec .streamAdvance s = .next { s with
        link := { s.link with queue := s.link.queue ++ [{ target := .station 0, body := .seg g }] }
        console := { s.console with stream := some { st with again := rest, queued := st.queued + 1 } } }) ∧
    (st.ending ≠ none ∨ (st.inHand ≠ none ∨ st.again ≠ []) ∧ (2 ≤ st.queued ∨ roomOrdinary s.link.queue = false) →
      exec .streamAdvance s = .next s) ∧
    (∀ r cause, (st.ending = none → s.OwesRecordIn st r → (s.startErase r cause).console.stream =
        some { st with ending := some .overtaken, inHand := none }) ∧
      (¬ s.OwesRecordIn st r → (s.startErase r cause).console.stream = some { st with next := s.streamNext st }) ∧
      (st.ending ≠ none → ∃ st', (s.startErase r cause).console.stream = some st' ∧ st'.ending = st.ending)) ∧
    (∀ o, st.ending = some o → s.console.endsOwed = [] → roomOrdinary s.link.queue = true →
      ∃ t, exec .streamEndQueue s = .next t ∧ t.console.stream = none ∧ Tells s t ∧
        ∀ e : StreamEndNote,
          e = { tag := st.tag, outcome := o, sent := st.sent, bad := st.bad, lastSequence := st.lastSequence } →
          { target := .station 0, body := .streamEnd e } ∈ t.link.queue ∧
          MakesAttentionTest { s with
            link := { s.link with queue := s.link.queue ++ [{ target := .station 0, body := .streamEnd e }] }
            console := { s.console with stream := none } } t) ∧
    (st.ending = none → s.console.endsOwed = [] → exec .streamEndQueue s = .next s) ∧
    (roomOrdinary s.link.queue = false → exec .streamEndQueue s = .next s)) ∧
  (∀ s : State, s.InLogOrder s.logRecords ∧
    (∀ (x : LogStart) (reached : List Byte → Prop),
      (∀ b, reached b ↔ recordGood b = true ∧ (x = .oldest ∨ ∃ n, x = .sequence n ∧ n ≤ recordSequence b)) →
      (s.startPosition x = none ↔ ∀ r ∈ s.logRecords, ¬ reached r.2) ∧
      (∀ p, s.startPosition x = some p → ∃ b before rest, s.logRecords = before ++ (p, b) :: rest ∧ reached b ∧
        ∀ r ∈ before, ¬ reached r.2)) ∧
    (∀ st : Stream, (∀ p, st.next = some p → s.streamNext st = some p) ∧
      (st.next = none → ∀ p b before rest, st.last = some p → s.logRecords = before ++ (p, b) :: rest →
        (∀ x ∈ before, x.1 ≠ p) → s.streamNext st = rest.head?.map Prod.fst)) ∧
    (∀ n q m, s.takesKind n.kind = true → n.urgent = true → s.link.queue = q ++ [m] → s.link.queue.length = 6 →
      (∀ g st, m.body = .seg g → s.console.stream = some st → st.serial = g.stream →
        (s.send n).console.stream = some { st with queued := st.queued - 1, again := g :: st.again }) ∧
      (∀ e, m.body = .streamEnd e → (s.send n).console.endsOwed = e :: s.console.endsOwed)) ∧
    (∀ e rest, s.running = true → s.console.endsOwed = e :: rest → roomOrdinary s.link.queue = true →
      exec .streamEndQueue s = .next { s with
        link := { s.link with queue := s.link.queue ++ [{ target := .station 0, body := .streamEnd e }] }
        console := { s.console with endsOwed := rest } }))

end
end

