-- ==== Sys2Proof/Laws/State.lean ====
section
/-! SUPPORT. What each update of State leaves in each field: one lemma per field per update, true by rfl. -/

namespace Sys2Proof.Machine

/-! ### `setQueue` -/

@[simp] theorem setQueue_pending (s : State) (q : List Note) : (s.setQueue q).pending = s.pending := rfl
@[simp] theorem setQueue_sys (s : State) (q : List Note) : (s.setQueue q).sys = s.sys := rfl
@[simp] theorem setQueue_pins (s : State) (q : List Note) : (s.setQueue q).pins = s.pins := rfl
@[simp] theorem setQueue_config (s : State) (q : List Note) : (s.setQueue q).config = s.config := rfl
@[simp] theorem setQueue_link (s : State) (q : List Note) :
    (s.setQueue q).link = { s.link with queue := q } := rfl
@[simp] theorem setQueue_roster (s : State) (q : List Note) : (s.setQueue q).roster = s.roster := rfl
@[simp] theorem setQueue_image (s : State) (q : List Note) : (s.setQueue q).image = s.image := rfl
@[simp] theorem setQueue_bay (s : State) (q : List Note) : (s.setQueue q).bay = s.bay := rfl
@[simp] theorem setQueue_panel (s : State) (q : List Note) : (s.setQueue q).panel = s.panel := rfl
@[simp] theorem setQueue_supply (s : State) (q : List Note) : (s.setQueue q).supply = s.supply := rfl
@[simp] theorem setQueue_shock (s : State) (q : List Note) : (s.setQueue q).shock = s.shock := rfl
@[simp] theorem setQueue_coord (s : State) (q : List Note) : (s.setQueue q).coord = s.coord := rfl
@[simp] theorem setQueue_store (s : State) (q : List Note) : (s.setQueue q).store = s.store := rfl
@[simp] theorem setQueue_flash (s : State) (q : List Note) : (s.setQueue q).flash = s.flash := rfl
@[simp] theorem setQueue_console (s : State) (q : List Note) : (s.setQueue q).console = s.console := rfl
@[simp] theorem setQueue_free (s : State) (q : List Note) : (s.setQueue q).free = s.free := rfl

/-! ### `joinCond` -/

@[simp] theorem joinCond_pending (s : State) (c : Condition) : (s.joinCond c).pending = s.pending := rfl
@[simp] theorem joinCond_sys (s : State) (c : Condition) : (s.joinCond c).sys = s.sys := rfl
@[simp] theorem joinCond_pins (s : State) (c : Condition) : (s.joinCond c).pins = s.pins := rfl
@[simp] theorem joinCond_config (s : State) (c : Condition) : (s.joinCond c).config = s.config := rfl
@[simp] theorem joinCond_link (s : State) (c : Condition) : (s.joinCond c).link = s.link := rfl
@[simp] theorem joinCond_roster (s : State) (c : Condition) : (s.joinCond c).roster = s.roster := rfl
@[simp] theorem joinCond_image (s : State) (c : Condition) : (s.joinCond c).image = s.image := rfl
@[simp] theorem joinCond_bay (s : State) (c : Condition) : (s.joinCond c).bay = s.bay := rfl
@[simp] theorem joinCond_panel (s : State) (c : Condition) : (s.joinCond c).panel = s.panel := rfl
@[simp] theorem joinCond_supply (s : State) (c : Condition) : (s.joinCond c).supply = s.supply := rfl
@[simp] theorem joinCond_shock (s : State) (c : Condition) : (s.joinCond c).shock = s.shock := rfl
@[simp] theorem joinCond_coord (s : State) (c : Condition) : (s.joinCond c).coord = s.coord := rfl
@[simp] theorem joinCond_store (s : State) (c : Condition) : (s.joinCond c).store = s.store := rfl
@[simp] theorem joinCond_flash (s : State) (c : Condition) : (s.joinCond c).flash = s.flash := rfl
@[simp] theorem joinCond_console (s : State) (c : Condition) :
    (s.joinCond c).console = { s.console with conditions := s.console.conditions.insert c.bit } := rfl
@[simp] theorem joinCond_free (s : State) (c : Condition) : (s.joinCond c).free = s.free := rfl

/-! ### `setPeer` -/

@[simp] theorem setPeer_pending (s : State) (k : Station) (p : Peer) :
    (s.setPeer k p).pending = s.pending := rfl
@[simp] theorem setPeer_sys (s : State) (k : Station) (p : Peer) : (s.setPeer k p).sys = s.sys := rfl
@[simp] theorem setPeer_pins (s : State) (k : Station) (p : Peer) : (s.setPeer k p).pins = s.pins := rfl
@[simp] theorem setPeer_config (s : State) (k : Station) (p : Peer) : (s.setPeer k p).config = s.config := rfl
@[simp] theorem setPeer_link (s : State) (k : Station) (p : Peer) :
    (s.setPeer k p).link = { s.link with peers := s.link.peers.set k p } := rfl
@[simp] theorem setPeer_roster (s : State) (k : Station) (p : Peer) : (s.setPeer k p).roster = s.roster := rfl
@[simp] theorem setPeer_image (s : State) (k : Station) (p : Peer) : (s.setPeer k p).image = s.image := rfl
@[simp] theorem setPeer_bay (s : State) (k : Station) (p : Peer) : (s.setPeer k p).bay = s.bay := rfl
@[simp] theorem setPeer_panel (s : State) (k : Station) (p : Peer) : (s.setPeer k p).panel = s.panel := rfl
@[simp] theorem setPeer_supply (s : State) (k : Station) (p : Peer) : (s.setPeer k p).supply = s.supply := rfl
@[simp] theorem setPeer_shock (s : State) (k : Station) (p : Peer) : (s.setPeer k p).shock = s.shock := rfl
@[simp] theorem setPeer_coord (s : State) (k : Station) (p : Peer) : (s.setPeer k p).coord = s.coord := rfl
@[simp] theorem setPeer_store (s : State) (k : Station) (p : Peer) : (s.setPeer k p).store = s.store := rfl
@[simp] theorem setPeer_flash (s : State) (k : Station) (p : Peer) : (s.setPeer k p).flash = s.flash := rfl
@[simp] theorem setPeer_console (s : State) (k : Station) (p : Peer) :
    (s.setPeer k p).console = s.console := rfl
@[simp] theorem setPeer_free (s : State) (k : Station) (p : Peer) : (s.setPeer k p).free = s.free := rfl

/-! ### `setCells` -/

@[simp] theorem setCells_pending (s : State) (cells : List Host.Cell) :
    (s.setCells cells).pending = s.pending := rfl
@[simp] theorem setCells_sys (s : State) (cells : List Host.Cell) : (s.setCells cells).sys = s.sys := rfl
@[simp] theorem setCells_pins (s : State) (cells : List Host.Cell) : (s.setCells cells).pins = s.pins := rfl
@[simp] theorem setCells_config (s : State) (cells : List Host.Cell) :
    (s.setCells cells).config = s.config := rfl
@[simp] theorem setCells_link (s : State) (cells : List Host.Cell) : (s.setCells cells).link = s.link := rfl
@[simp] theorem setCells_roster (s : State) (cells : List Host.Cell) :
    (s.setCells cells).roster = s.roster := rfl
@[simp] theorem setCells_image (s : State) (cells : List Host.Cell) :
    (s.setCells cells).image = s.image := rfl
@[simp] theorem setCells_bay (s : State) (cells : List Host.Cell) : (s.setCells cells).bay = s.bay := rfl
@[simp] theorem setCells_panel (s : State) (cells : List Host.Cell) :
    (s.setCells cells).panel = s.panel := rfl
@[simp] theorem setCells_supply (s : State) (cells : List Host.Cell) :
    (s.setCells cells).supply = s.supply := rfl
@[simp] theorem setCells_shock (s : State) (cells : List Host.Cell) :
    (s.setCells cells).shock = s.shock := rfl
@[simp] theorem setCells_coord (s : State) (cells : List Host.Cell) :
    (s.setCells cells).coord = s.coord := rfl
@[simp] theorem setCells_store (s : State) (cells : List Host.Cell) :
    (s.setCells cells).store = s.store := rfl
@[simp] theorem setCells_flash (s : State) (cells : List Host.Cell) :
    (s.setCells cells).flash = { s.flash with cells := cells } := rfl
@[simp] theorem setCells_console (s : State) (cells : List Host.Cell) :
    (s.setCells cells).console = s.console := rfl
@[simp] theorem setCells_free (s : State) (cells : List Host.Cell) : (s.setCells cells).free = s.free := rfl

/-! ### `driveLa` -/

@[simp] theorem driveLa_pending (s : State) (on : Bool) : (s.driveLa on).pending = s.pending := rfl
@[simp] theorem driveLa_sys (s : State) (on : Bool) : (s.driveLa on).sys = s.sys := rfl
@[simp] theorem driveLa_pins (s : State) (on : Bool) : (s.driveLa on).pins = s.pins := rfl
@[simp] theorem driveLa_config (s : State) (on : Bool) : (s.driveLa on).config = s.config := rfl
@[simp] theorem driveLa_link (s : State) (on : Bool) :
    (s.driveLa on).link = { s.link with laDrive := on } := rfl
@[simp] theorem driveLa_roster (s : State) (on : Bool) : (s.driveLa on).roster = s.roster := rfl
@[simp] theorem driveLa_image (s : State) (on : Bool) : (s.driveLa on).image = s.image := rfl
@[simp] theorem driveLa_bay (s : State) (on : Bool) : (s.driveLa on).bay = s.bay := rfl
@[simp] theorem driveLa_panel (s : State) (on : Bool) : (s.driveLa on).panel = s.panel := rfl
@[simp] theorem driveLa_supply (s : State) (on : Bool) : (s.driveLa on).supply = s.supply := rfl
@[simp] theorem driveLa_shock (s : State) (on : Bool) : (s.driveLa on).shock = s.shock := rfl
@[simp] theorem driveLa_coord (s : State) (on : Bool) : (s.driveLa on).coord = s.coord := rfl
@[simp] theorem driveLa_store (s : State) (on : Bool) : (s.driveLa on).store = s.store := rfl
@[simp] theorem driveLa_flash (s : State) (on : Bool) : (s.driveLa on).flash = s.flash := rfl
@[simp] theorem driveLa_console (s : State) (on : Bool) : (s.driveLa on).console = s.console := rfl
@[simp] theorem driveLa_free (s : State) (on : Bool) : (s.driveLa on).free = s.free := rfl

/-! ### `setStream` -/

@[simp] theorem setStream_pending (s : State) (st : Stream) : (s.setStream st).pending = s.pending := rfl
@[simp] theorem setStream_sys (s : State) (st : Stream) : (s.setStream st).sys = s.sys := rfl
@[simp] theorem setStream_pins (s : State) (st : Stream) : (s.setStream st).pins = s.pins := rfl
@[simp] theorem setStream_config (s : State) (st : Stream) : (s.setStream st).config = s.config := rfl
@[simp] theorem setStream_link (s : State) (st : Stream) : (s.setStream st).link = s.link := rfl
@[simp] theorem setStream_roster (s : State) (st : Stream) : (s.setStream st).roster = s.roster := rfl
@[simp] theorem setStream_image (s : State) (st : Stream) : (s.setStream st).image = s.image := rfl
@[simp] theorem setStream_bay (s : State) (st : Stream) : (s.setStream st).bay = s.bay := rfl
@[simp] theorem setStream_panel (s : State) (st : Stream) : (s.setStream st).panel = s.panel := rfl
@[simp] theorem setStream_supply (s : State) (st : Stream) : (s.setStream st).supply = s.supply := rfl
@[simp] theorem setStream_shock (s : State) (st : Stream) : (s.setStream st).shock = s.shock := rfl
@[simp] theorem setStream_coord (s : State) (st : Stream) : (s.setStream st).coord = s.coord := rfl
@[simp] theorem setStream_store (s : State) (st : Stream) : (s.setStream st).store = s.store := rfl
@[simp] theorem setStream_flash (s : State) (st : Stream) : (s.setStream st).flash = s.flash := rfl
@[simp] theorem setStream_console (s : State) (st : Stream) :
    (s.setStream st).console = { s.console with stream := some st } := rfl
@[simp] theorem setStream_free (s : State) (st : Stream) : (s.setStream st).free = s.free := rfl

/-! ### `spend` -/

@[simp] theorem spend_pending (s : State) : (s.spend).pending = s.pending := rfl
@[simp] theorem spend_sys (s : State) : (s.spend).sys = s.sys := rfl
@[simp] theorem spend_pins (s : State) : (s.spend).pins = s.pins := rfl
@[simp] theorem spend_config (s : State) : (s.spend).config = s.config := rfl
@[simp] theorem spend_link (s : State) : (s.spend).link = s.link := rfl
@[simp] theorem spend_roster (s : State) : (s.spend).roster = s.roster := rfl
@[simp] theorem spend_image (s : State) : (s.spend).image = s.image := rfl
@[simp] theorem spend_bay (s : State) : (s.spend).bay = s.bay := rfl
@[simp] theorem spend_panel (s : State) : (s.spend).panel = s.panel := rfl
@[simp] theorem spend_supply (s : State) : (s.spend).supply = s.supply := rfl
@[simp] theorem spend_shock (s : State) : (s.spend).shock = s.shock := rfl
@[simp] theorem spend_coord (s : State) : (s.spend).coord = s.coord := rfl
@[simp] theorem spend_store (s : State) : (s.spend).store = s.store := rfl
@[simp] theorem spend_flash (s : State) : (s.spend).flash = s.flash := rfl
@[simp] theorem spend_console (s : State) : (s.spend).console = s.console := rfl
@[simp] theorem spend_free (s : State) : (s.spend).free = s.free + 1 := rfl

/-! ### `withStore` -/

@[simp] theorem withStore_pending (s : State) (f : Store → Store) : (s.withStore f).pending = s.pending := rfl
@[simp] theorem withStore_sys (s : State) (f : Store → Store) : (s.withStore f).sys = s.sys := rfl
@[simp] theorem withStore_pins (s : State) (f : Store → Store) : (s.withStore f).pins = s.pins := rfl
@[simp] theorem withStore_config (s : State) (f : Store → Store) : (s.withStore f).config = s.config := rfl
@[simp] theorem withStore_link (s : State) (f : Store → Store) : (s.withStore f).link = s.link := rfl
@[simp] theorem withStore_roster (s : State) (f : Store → Store) : (s.withStore f).roster = s.roster := rfl
@[simp] theorem withStore_image (s : State) (f : Store → Store) : (s.withStore f).image = s.image := rfl
@[simp] theorem withStore_bay (s : State) (f : Store → Store) : (s.withStore f).bay = s.bay := rfl
@[simp] theorem withStore_panel (s : State) (f : Store → Store) : (s.withStore f).panel = s.panel := rfl
@[simp] theorem withStore_supply (s : State) (f : Store → Store) : (s.withStore f).supply = s.supply := rfl
@[simp] theorem withStore_shock (s : State) (f : Store → Store) : (s.withStore f).shock = s.shock := rfl
@[simp] theorem withStore_coord (s : State) (f : Store → Store) : (s.withStore f).coord = s.coord := rfl
@[simp] theorem withStore_store (s : State) (f : Store → Store) : (s.withStore f).store = f s.store := rfl
@[simp] theorem withStore_flash (s : State) (f : Store → Store) : (s.withStore f).flash = s.flash := rfl
@[simp] theorem withStore_console (s : State) (f : Store → Store) : (s.withStore f).console = s.console := rfl
@[simp] theorem withStore_free (s : State) (f : Store → Store) : (s.withStore f).free = s.free := rfl

/-! ### `withUnit` -/

@[simp] theorem withUnit_pending (s : State) (f : RosterUnit → RosterUnit) :
    (s.withUnit f).pending = s.pending := rfl
@[simp] theorem withUnit_sys (s : State) (f : RosterUnit → RosterUnit) : (s.withUnit f).sys = s.sys := rfl
@[simp] theorem withUnit_pins (s : State) (f : RosterUnit → RosterUnit) : (s.withUnit f).pins = s.pins := rfl
@[simp] theorem withUnit_config (s : State) (f : RosterUnit → RosterUnit) :
    (s.withUnit f).config = s.config := rfl
@[simp] theorem withUnit_link (s : State) (f : RosterUnit → RosterUnit) : (s.withUnit f).link = s.link := rfl
@[simp] theorem withUnit_roster (s : State) (f : RosterUnit → RosterUnit) :
    (s.withUnit f).roster = f s.roster := rfl
@[simp] theorem withUnit_image (s : State) (f : RosterUnit → RosterUnit) :
    (s.withUnit f).image = s.image := rfl
@[simp] theorem withUnit_bay (s : State) (f : RosterUnit → RosterUnit) : (s.withUnit f).bay = s.bay := rfl
@[simp] theorem withUnit_panel (s : State) (f : RosterUnit → RosterUnit) :
    (s.withUnit f).panel = s.panel := rfl
@[simp] theorem withUnit_supply (s : State) (f : RosterUnit → RosterUnit) :
    (s.withUnit f).supply = s.supply := rfl
@[simp] theorem withUnit_shock (s : State) (f : RosterUnit → RosterUnit) :
    (s.withUnit f).shock = s.shock := rfl
@[simp] theorem withUnit_coord (s : State) (f : RosterUnit → RosterUnit) :
    (s.withUnit f).coord = s.coord := rfl
@[simp] theorem withUnit_store (s : State) (f : RosterUnit → RosterUnit) :
    (s.withUnit f).store = s.store := rfl
@[simp] theorem withUnit_flash (s : State) (f : RosterUnit → RosterUnit) :
    (s.withUnit f).flash = s.flash := rfl
@[simp] theorem withUnit_console (s : State) (f : RosterUnit → RosterUnit) :
    (s.withUnit f).console = s.console := rfl
@[simp] theorem withUnit_free (s : State) (f : RosterUnit → RosterUnit) : (s.withUnit f).free = s.free := rfl

/-! ### `withRecord` -/

@[simp] theorem withRecord_pending (s : State) (f : Roster → Roster) :
    (s.withRecord f).pending = s.pending := rfl
@[simp] theorem withRecord_sys (s : State) (f : Roster → Roster) : (s.withRecord f).sys = s.sys := rfl
@[simp] theorem withRecord_pins (s : State) (f : Roster → Roster) : (s.withRecord f).pins = s.pins := rfl
@[simp] theorem withRecord_config (s : State) (f : Roster → Roster) :
    (s.withRecord f).config = s.config := rfl
@[simp] theorem withRecord_link (s : State) (f : Roster → Roster) : (s.withRecord f).link = s.link := rfl
@[simp] theorem withRecord_roster (s : State) (f : Roster → Roster) :
    (s.withRecord f).roster = { s.roster with record := f s.roster.record } := rfl
@[simp] theorem withRecord_image (s : State) (f : Roster → Roster) : (s.withRecord f).image = s.image := rfl
@[simp] theorem withRecord_bay (s : State) (f : Roster → Roster) : (s.withRecord f).bay = s.bay := rfl
@[simp] theorem withRecord_panel (s : State) (f : Roster → Roster) : (s.withRecord f).panel = s.panel := rfl
@[simp] theorem withRecord_supply (s : State) (f : Roster → Roster) :
    (s.withRecord f).supply = s.supply := rfl
@[simp] theorem withRecord_shock (s : State) (f : Roster → Roster) : (s.withRecord f).shock = s.shock := rfl
@[simp] theorem withRecord_coord (s : State) (f : Roster → Roster) : (s.withRecord f).coord = s.coord := rfl
@[simp] theorem withRecord_store (s : State) (f : Roster → Roster) : (s.withRecord f).store = s.store := rfl
@[simp] theorem withRecord_flash (s : State) (f : Roster → Roster) : (s.withRecord f).flash = s.flash := rfl
@[simp] theorem withRecord_console (s : State) (f : Roster → Roster) :
    (s.withRecord f).console = s.console := rfl
@[simp] theorem withRecord_free (s : State) (f : Roster → Roster) : (s.withRecord f).free = s.free := rfl

/-! ### `withBay` -/

@[simp] theorem withBay_pending (s : State) (f : Bay → Bay) : (s.withBay f).pending = s.pending := rfl
@[simp] theorem withBay_sys (s : State) (f : Bay → Bay) : (s.withBay f).sys = s.sys := rfl
@[simp] theorem withBay_pins (s : State) (f : Bay → Bay) : (s.withBay f).pins = s.pins := rfl
@[simp] theorem withBay_config (s : State) (f : Bay → Bay) : (s.withBay f).config = s.config := rfl
@[simp] theorem withBay_link (s : State) (f : Bay → Bay) : (s.withBay f).link = s.link := rfl
@[simp] theorem withBay_roster (s : State) (f : Bay → Bay) : (s.withBay f).roster = s.roster := rfl
@[simp] theorem withBay_image (s : State) (f : Bay → Bay) : (s.withBay f).image = s.image := rfl
@[simp] theorem withBay_bay (s : State) (f : Bay → Bay) : (s.withBay f).bay = f s.bay := rfl
@[simp] theorem withBay_panel (s : State) (f : Bay → Bay) : (s.withBay f).panel = s.panel := rfl
@[simp] theorem withBay_supply (s : State) (f : Bay → Bay) : (s.withBay f).supply = s.supply := rfl
@[simp] theorem withBay_shock (s : State) (f : Bay → Bay) : (s.withBay f).shock = s.shock := rfl
@[simp] theorem withBay_coord (s : State) (f : Bay → Bay) : (s.withBay f).coord = s.coord := rfl
@[simp] theorem withBay_store (s : State) (f : Bay → Bay) : (s.withBay f).store = s.store := rfl
@[simp] theorem withBay_flash (s : State) (f : Bay → Bay) : (s.withBay f).flash = s.flash := rfl
@[simp] theorem withBay_console (s : State) (f : Bay → Bay) : (s.withBay f).console = s.console := rfl
@[simp] theorem withBay_free (s : State) (f : Bay → Bay) : (s.withBay f).free = s.free := rfl

/-! ### `withPanel` -/

@[simp] theorem withPanel_pending (s : State) (f : Panel → Panel) : (s.withPanel f).pending = s.pending := rfl
@[simp] theorem withPanel_sys (s : State) (f : Panel → Panel) : (s.withPanel f).sys = s.sys := rfl
@[simp] theorem withPanel_pins (s : State) (f : Panel → Panel) : (s.withPanel f).pins = s.pins := rfl
@[simp] theorem withPanel_config (s : State) (f : Panel → Panel) : (s.withPanel f).config = s.config := rfl
@[simp] theorem withPanel_link (s : State) (f : Panel → Panel) : (s.withPanel f).link = s.link := rfl
@[simp] theorem withPanel_roster (s : State) (f : Panel → Panel) : (s.withPanel f).roster = s.roster := rfl
@[simp] theorem withPanel_image (s : State) (f : Panel → Panel) : (s.withPanel f).image = s.image := rfl
@[simp] theorem withPanel_bay (s : State) (f : Panel → Panel) : (s.withPanel f).bay = s.bay := rfl
@[simp] theorem withPanel_panel (s : State) (f : Panel → Panel) : (s.withPanel f).panel = f s.panel := rfl
@[simp] theorem withPanel_supply (s : State) (f : Panel → Panel) : (s.withPanel f).supply = s.supply := rfl
@[simp] theorem withPanel_shock (s : State) (f : Panel → Panel) : (s.withPanel f).shock = s.shock := rfl
@[simp] theorem withPanel_coord (s : State) (f : Panel → Panel) : (s.withPanel f).coord = s.coord := rfl
@[simp] theorem withPanel_store (s : State) (f : Panel → Panel) : (s.withPanel f).store = s.store := rfl
@[simp] theorem withPanel_flash (s : State) (f : Panel → Panel) : (s.withPanel f).flash = s.flash := rfl
@[simp] theorem withPanel_console (s : State) (f : Panel → Panel) : (s.withPanel f).console = s.console := rfl
@[simp] theorem withPanel_free (s : State) (f : Panel → Panel) : (s.withPanel f).free = s.free := rfl

/-! ### `withSupply` -/

@[simp] theorem withSupply_pending (s : State) (f : Supply → Supply) :
    (s.withSupply f).pending = s.pending := rfl
@[simp] theorem withSupply_sys (s : State) (f : Supply → Supply) : (s.withSupply f).sys = s.sys := rfl
@[simp] theorem withSupply_pins (s : State) (f : Supply → Supply) : (s.withSupply f).pins = s.pins := rfl
@[simp] theorem withSupply_config (s : State) (f : Supply → Supply) :
    (s.withSupply f).config = s.config := rfl
@[simp] theorem withSupply_link (s : State) (f : Supply → Supply) : (s.withSupply f).link = s.link := rfl
@[simp] theorem withSupply_roster (s : State) (f : Supply → Supply) :
    (s.withSupply f).roster = s.roster := rfl
@[simp] theorem withSupply_image (s : State) (f : Supply → Supply) : (s.withSupply f).image = s.image := rfl
@[simp] theorem withSupply_bay (s : State) (f : Supply → Supply) : (s.withSupply f).bay = s.bay := rfl
@[simp] theorem withSupply_panel (s : State) (f : Supply → Supply) : (s.withSupply f).panel = s.panel := rfl
@[simp] theorem withSupply_supply (s : State) (f : Supply → Supply) :
    (s.withSupply f).supply = f s.supply := rfl
@[simp] theorem withSupply_shock (s : State) (f : Supply → Supply) : (s.withSupply f).shock = s.shock := rfl
@[simp] theorem withSupply_coord (s : State) (f : Supply → Supply) : (s.withSupply f).coord = s.coord := rfl
@[simp] theorem withSupply_store (s : State) (f : Supply → Supply) : (s.withSupply f).store = s.store := rfl
@[simp] theorem withSupply_flash (s : State) (f : Supply → Supply) : (s.withSupply f).flash = s.flash := rfl
@[simp] theorem withSupply_console (s : State) (f : Supply → Supply) :
    (s.withSupply f).console = s.console := rfl
@[simp] theorem withSupply_free (s : State) (f : Supply → Supply) : (s.withSupply f).free = s.free := rfl

/-! ### `withShock` -/

@[simp] theorem withShock_pending (s : State) (f : Shock → Shock) : (s.withShock f).pending = s.pending := rfl
@[simp] theorem withShock_sys (s : State) (f : Shock → Shock) : (s.withShock f).sys = s.sys := rfl
@[simp] theorem withShock_pins (s : State) (f : Shock → Shock) : (s.withShock f).pins = s.pins := rfl
@[simp] theorem withShock_config (s : State) (f : Shock → Shock) : (s.withShock f).config = s.config := rfl
@[simp] theorem withShock_link (s : State) (f : Shock → Shock) : (s.withShock f).link = s.link := rfl
@[simp] theorem withShock_roster (s : State) (f : Shock → Shock) : (s.withShock f).roster = s.roster := rfl
@[simp] theorem withShock_image (s : State) (f : Shock → Shock) : (s.withShock f).image = s.image := rfl
@[simp] theorem withShock_bay (s : State) (f : Shock → Shock) : (s.withShock f).bay = s.bay := rfl
@[simp] theorem withShock_panel (s : State) (f : Shock → Shock) : (s.withShock f).panel = s.panel := rfl
@[simp] theorem withShock_supply (s : State) (f : Shock → Shock) : (s.withShock f).supply = s.supply := rfl
@[simp] theorem withShock_shock (s : State) (f : Shock → Shock) : (s.withShock f).shock = f s.shock := rfl
@[simp] theorem withShock_coord (s : State) (f : Shock → Shock) : (s.withShock f).coord = s.coord := rfl
@[simp] theorem withShock_store (s : State) (f : Shock → Shock) : (s.withShock f).store = s.store := rfl
@[simp] theorem withShock_flash (s : State) (f : Shock → Shock) : (s.withShock f).flash = s.flash := rfl
@[simp] theorem withShock_console (s : State) (f : Shock → Shock) : (s.withShock f).console = s.console := rfl
@[simp] theorem withShock_free (s : State) (f : Shock → Shock) : (s.withShock f).free = s.free := rfl

/-! ### `withCoord` -/

@[simp] theorem withCoord_pending (s : State) (f : Coordinator → Coordinator) :
    (s.withCoord f).pending = s.pending := rfl
@[simp] theorem withCoord_sys (s : State) (f : Coordinator → Coordinator) : (s.withCoord f).sys = s.sys := rfl
@[simp] theorem withCoord_pins (s : State) (f : Coordinator → Coordinator) :
    (s.withCoord f).pins = s.pins := rfl
@[simp] theorem withCoord_config (s : State) (f : Coordinator → Coordinator) :
    (s.withCoord f).config = s.config := rfl
@[simp] theorem withCoord_link (s : State) (f : Coordinator → Coordinator) :
    (s.withCoord f).link = s.link := rfl
@[simp] theorem withCoord_roster (s : State) (f : Coordinator → Coordinator) :
    (s.withCoord f).roster = s.roster := rfl
@[simp] theorem withCoord_image (s : State) (f : Coordinator → Coordinator) :
    (s.withCoord f).image = s.image := rfl
@[simp] theorem withCoord_bay (s : State) (f : Coordinator → Coordinator) : (s.withCoord f).bay = s.bay := rfl
@[simp] theorem withCoord_panel (s : State) (f : Coordinator → Coordinator) :
    (s.withCoord f).panel = s.panel := rfl
@[simp] theorem withCoord_supply (s : State) (f : Coordinator → Coordinator) :
    (s.withCoord f).supply = s.supply := rfl
@[simp] theorem withCoord_shock (s : State) (f : Coordinator → Coordinator) :
    (s.withCoord f).shock = s.shock := rfl
@[simp] theorem withCoord_coord (s : State) (f : Coordinator → Coordinator) :
    (s.withCoord f).coord = f s.coord := rfl
@[simp] theorem withCoord_store (s : State) (f : Coordinator → Coordinator) :
    (s.withCoord f).store = s.store := rfl
@[simp] theorem withCoord_flash (s : State) (f : Coordinator → Coordinator) :
    (s.withCoord f).flash = s.flash := rfl
@[simp] theorem withCoord_console (s : State) (f : Coordinator → Coordinator) :
    (s.withCoord f).console = s.console := rfl
@[simp] theorem withCoord_free (s : State) (f : Coordinator → Coordinator) :
    (s.withCoord f).free = s.free := rfl

end Sys2Proof.Machine
end

