-- ==== Sys2Proof/Laws/Check.lean ====
section
/-! SUPPORT. What the check of R205 catches: bytes that end with their check do so no more once the lowest bit of one
of them is turned over, and erased bytes with one such bit do not. And how a topic's content fits its parts (R192). -/

namespace Sys2Proof.Machine

/-- A step of the check keeps two registers apart. -/
theorem checkBit_injective {r r' : BitVec 16} {d : Bool} (h : checkBit r d = checkBit r' d) : r = r' := by
  have key : ∀ x y : BitVec 16, x <<< 1 = y <<< 1 → x.getLsbD 15 = y.getLsbD 15 → x = y := by
    intro x y h1 h2
    ext i hi
    have := congrArg (·.getLsbD (i + 1)) h1
    by_cases h : i = 15
    · subst h; simpa using h2
    · simp only [BitVec.getLsbD_shiftLeft] at this
      have a : i + 1 < 16 := by omega
      have g : x.getLsbD i = y.getLsbD i := by simpa [a] using this
      simpa [BitVec.getLsbD_eq_getElem, hi] using g
  have odd : ∀ x y : BitVec 16, (x <<< 1) ^^^ 4129#16 ≠ y <<< 1 := by
    intro x y e
    have := congrArg (·.getLsbD 0) e
    simp at this
  have same : ∀ x y d : Bool, (x != d) = (y != d) → x = y := by decide
  unfold checkBit at h
  by_cases a : (r.getLsbD 15 != d) = true <;> by_cases b : (r'.getLsbD 15 != d) = true
  · rw [if_pos a, if_pos b] at h
    refine key _ _ (by simpa using congrArg (· ^^^ 4129#16) h) ?_
    exact same _ _ _ (a.trans b.symm)
  · rw [if_pos a, if_neg b] at h; exact absurd h (odd _ _)
  · rw [if_neg a, if_pos b] at h; exact absurd h.symm (odd _ _)
  · rw [if_neg a, if_neg b] at h
    refine key _ _ h ?_
    exact same _ _ _ ((Bool.eq_false_iff.mpr a).trans (Bool.eq_false_iff.mpr b).symm)

/-- A step of the check tells its two data bits apart. -/
theorem checkBit_flip (r : BitVec 16) (d : Bool) : checkBit r (!d) ≠ checkBit r d := by
  have odd : ∀ x y : BitVec 16, (x <<< 1) ^^^ 4129#16 ≠ y <<< 1 := by
    intro x y e
    have := congrArg (·.getLsbD 0) e
    simp at this
  unfold checkBit
  cases h : r.getLsbD 15 <;> cases d
  · exact odd r r
  · exact fun e => odd r r e.symm
  · exact fun e => odd r r e.symm
  · exact odd r r

/-- A byte of the check keeps two registers apart. -/
theorem checkByte_injective {r r' : BitVec 16} {b : Byte} (h : checkByte r b = checkByte r' b) : r = r' := by
  simp only [checkByte, List.foldl] at h
  exact checkBit_injective (checkBit_injective (checkBit_injective (checkBit_injective (checkBit_injective
    (checkBit_injective (checkBit_injective (checkBit_injective h)))))))

/-- The check tells a byte from the one whose lowest bit is turned over. -/
theorem checkByte_flip (r : BitVec 16) (b : Byte) : checkByte r (b ^^^ 1#8) ≠ checkByte r b := by
  simp only [checkByte, List.foldl]
  simp only [BitVec.getLsbD_xor, show (1#8).getLsbD 7 = false from rfl, show (1#8).getLsbD 6 = false from rfl,
    show (1#8).getLsbD 5 = false from rfl, show (1#8).getLsbD 4 = false from rfl, show (1#8).getLsbD 3 = false from rfl,
    show (1#8).getLsbD 2 = false from rfl, show (1#8).getLsbD 1 = false from rfl, show (1#8).getLsbD 0 = true from rfl,
    Bool.bne_false, Bool.bne_true]
  exact checkBit_flip _ _

/-- The bytes of the check keep two registers apart. -/
theorem checkFold_injective {r r' : BitVec 16} {bytes : List Byte}
    (h : bytes.foldl checkByte r = bytes.foldl checkByte r') : r = r' := by
  induction bytes generalizing r r' with
  | nil => exact h
  | cons b bs ih => exact checkByte_injective (ih h)

/-- Bytes of which one has its lowest bit turned over have another check. -/
theorem checkOf_flip (front back : List Byte) (b : Byte) :
    checkOf (front ++ (b ^^^ 1#8) :: back) ≠ checkOf (front ++ b :: back) := by
  simp only [checkOf, List.foldl_append, List.foldl_cons]
  exact fun e => checkByte_flip _ _ (checkFold_injective e)

/-- The stored check tells two checks apart. -/
theorem checkBytes_injective {x y : List Byte} (h : checkBytes x = checkBytes y) : checkOf x = checkOf y := by
  simp only [checkBytes, le16, List.cons.injEq, and_true] at h
  have hx := (checkOf x).isLt
  have hy := (checkOf y).isLt
  apply BitVec.eq_of_toNat_eq
  have h1 := congrArg BitVec.toNat h.1
  have h2 := congrArg BitVec.toNat h.2
  simp only [BitVec.toNat_ofNat] at h1 h2
  omega
/-- The last two bytes are the check of the others (R205). -/
theorem endsWithCheck_append (l : List Byte) (c d : Byte) :
    endsWithCheck (l ++ [c, d]) = true ↔ [c, d] = checkBytes l := by
  have n : (l ++ [c, d]).length - 2 = l.length := by simp
  simp only [endsWithCheck, n, List.drop_left, List.take_left]
  simp

/-- Bytes that end with their check do so no more once the lowest bit of one of them is turned over (R205). -/
theorem endsWithCheck_flip {front back : List Byte} {b : Byte} (h : endsWithCheck (front ++ b :: back) = true) :
    endsWithCheck (front ++ (b ^^^ 1#8) :: back) = false := by
  have other : b ^^^ 1#8 ≠ b := fun e => by
    have := congrArg (·.getLsbD 0) e
    simp at this
  rw [Bool.eq_false_iff, ne_eq]
  intro h'
  rcases List.eq_nil_or_concat back with rfl | ⟨back, d, rfl⟩
  · rcases List.eq_nil_or_concat front with rfl | ⟨front, c, rfl⟩
    · simp [endsWithCheck] at h
    · simp only [List.concat_eq_append, List.append_assoc, List.singleton_append] at h h'
      rw [endsWithCheck_append] at h h'
      have := h'.trans h.symm
      simp only [List.cons.injEq, and_true, true_and] at this
      exact other this
  · rcases List.eq_nil_or_concat back with rfl | ⟨back, c, rfl⟩
    · simp only [List.concat_eq_append, List.nil_append] at h h'
      rw [endsWithCheck_append] at h h'
      have := h'.trans h.symm
      simp only [List.cons.injEq, and_true] at this
      exact other this
    · have e : ∀ x : Byte, front ++ x :: ((back.concat c).concat d) = (front ++ x :: back) ++ [c, d] := by simp
      rw [e, endsWithCheck_append] at h h'
      exact checkOf_flip _ _ _ (checkBytes_injective (h'.symm.trans h))

/-! ### Erased bytes (R165, R205) -/

/-- Erased bytes, with the lowest bit of one of them turned over. -/
theorem erased_first : ∀ k : Fin 33,
    (List.replicate k 255#8 ++ 254#8 :: List.replicate (32 - k) 255#8).foldl checkByte 65535#16 ≠ 0x6764#16 := by
  decide +kernel

theorem erased_second : ∀ k : Fin 33,
    (List.replicate k 255#8 ++ 254#8 :: List.replicate (32 - k) 255#8).foldl checkByte 0xc8c2#16 ≠ 65535#16 := by
  decide +kernel

theorem erased_half : (List.replicate 33 255#8).foldl checkByte 65535#16 = 0xc8c2#16
    ∧ (List.replicate 33 255#8).foldl checkByte 0x6764#16 = 65535#16
    ∧ (List.replicate 33 255#8).foldl checkByte 0xc8c2#16 = 0x278e#16 := by
  decide +kernel

/-- A blank configuration record with the lowest bit of one byte turned over fails its check (R166, R205). -/
theorem erasedRecord_bad {k : Nat} (hk : k < 68) :
    endsWithCheck (List.replicate k 255#8 ++ 254#8 :: List.replicate (67 - k) 255#8) = false := by
  have stored : checkBytes [] = [255#8, 255#8] := by decide
  rw [Bool.eq_false_iff, ne_eq]
  intro h
  by_cases h66 : k < 66
  · have e : List.replicate k 255#8 ++ 254#8 :: List.replicate (67 - k) 255#8
        = (List.replicate k 255#8 ++ 254#8 :: List.replicate (65 - k) 255#8) ++ [255#8, 255#8] := by
      have : List.replicate (67 - k) 255#8 = List.replicate (65 - k) 255#8 ++ [255#8, 255#8] := by
        rw [show 67 - k = (65 - k) + 2 by omega, ← List.replicate_append_replicate]; rfl
      rw [this]; simp
    rw [e, endsWithCheck_append, ← stored] at h
    have full := checkBytes_injective h
    simp only [checkOf, List.foldl_nil] at full
    by_cases h33 : k < 33
    · have split : List.replicate k 255#8 ++ 254#8 :: List.replicate (65 - k) 255#8
          = (List.replicate k 255#8 ++ 254#8 :: List.replicate (32 - k) 255#8) ++ List.replicate 33 255#8 := by
        rw [show 65 - k = (32 - k) + 33 by omega, ← List.replicate_append_replicate]; simp
      rw [split, List.foldl_append] at full
      exact erased_first ⟨k, h33⟩ (checkFold_injective (full.symm.trans erased_half.2.1.symm))
    · have split : List.replicate k 255#8 ++ 254#8 :: List.replicate (65 - k) 255#8
          = List.replicate 33 255#8 ++ (List.replicate (k - 33) 255#8 ++ 254#8 :: List.replicate (32 - (k - 33)) 255#8) := by
        rw [← List.append_assoc, List.replicate_append_replicate, show 33 + (k - 33) = k by omega,
          show 32 - (k - 33) = 65 - k by omega]
      rw [split, List.foldl_append, erased_half.1] at full
      exact erased_second ⟨k - 33, by omega⟩ full.symm
  · have whole : checkOf (List.replicate 66 255#8) = 0x278e#16 := by
      rw [show List.replicate 66 255#8 = List.replicate 33 255#8 ++ List.replicate 33 255#8 from rfl, checkOf,
        List.foldl_append, erased_half.1, erased_half.2.2]
    have bytes : checkBytes (List.replicate 66 255#8) = [0x8e#8, 0x27#8] := by rw [checkBytes, whole]; decide
    rcases (show k = 66 ∨ k = 67 by omega) with rfl | rfl
    · rw [show (67 - 66) = 1 from rfl] at h
      rw [show List.replicate 66 255#8 ++ 254#8 :: List.replicate 1 255#8 = List.replicate 66 255#8 ++ [254#8, 255#8] from rfl,
        endsWithCheck_append, bytes] at h
      simp at h
    · rw [show List.replicate 67 255#8 ++ 254#8 :: List.replicate (67 - 67) 255#8
          = List.replicate 66 255#8 ++ [255#8, 254#8] from rfl, endsWithCheck_append, bytes] at h
      simp at h

/-! ### The parts of a topic's content (R192, R207) -/

/-- A topic has at least the fewest parts that hold its fields, and at most 16 (R192). -/
theorem partsOf_bounds (t : Topic) (r : Role) : leastParts t ≤ partsOf t r ∧ partsOf t r ≤ 16 := by
  unfold partsOf
  split
  · rename_i h; subst h; decide
  · have h : leastParts t ≤ 2 := by cases t <;> decide
    have := Nat.mod_lt (Config.moreParts t r) (show 0 < 17 - leastParts t by omega)
    omega

/-- The payload of a ROSTER has 7 bytes and 3 for each entry (R207). -/
theorem rosterPayload_length (r : Roster) : (rosterPayload r).length = 7 + 3 * r.entries.length := by
  have : ∀ l : List Entry, (l.flatMap entryNumbers).length = 3 * l.length := fun l => by
    induction l with
    | nil => rfl
    | cons e l ih =>
      simp only [List.flatMap_cons, List.length_append, ih, List.length_cons, entryNumbers, List.length_nil]
      omega
  simp only [rosterPayload, rosterNumbers, List.length_map, List.length_append, this, List.length_cons, List.length_nil]

end Sys2Proof.Machine
end

