-- ==== Sys2Proof/Laws/Effect.lean ====
section
/-! SUPPORT. `Effect p s t`: what an operation that leads from `s` to `t` can do. It changes no part but those of
`p`, and it keeps every law. Each operation has one lemma, in the form that a later operation continues an earlier
effect, so that a lemma about a composed operation is closed by `simp` with the lemmas of what it calls. -/

namespace Sys2Proof.Machine

/-- The parts of the state an operation may change: the outgoing queue, the rest of the Link Interface, the drive of
LA, and the other blocks; `clear`: it may remove conditions. -/
structure Parts where
  queue : Bool := false
  line : Bool := false
  link : Bool := false
  console : Bool := false
  clear : Bool := false
  store : Bool := false
  flash : Bool := false
  roster : Bool := false
  image : Bool := false
  bay : Bool := false
  panel : Bool := false
  supply : Bool := false
  shock : Bool := false
  coord : Bool := false
  free : Bool := false

/-- The Link Interface apart from its queue and its drive of LA. -/
def Link.rest (l : Link) : Link := { l with queue := [], laDrive := false }

/-- An operation from `s` to `t` leaves every part outside `p` as it was, and keeps every law. -/
structure Effect (p : Parts) (s t : State) : Prop where
  pending : t.pending = s.pending
  sys : t.sys = s.sys
  pins : t.pins = s.pins
  config : t.config = s.config
  queue : p.queue = false → t.link.queue = s.link.queue
  line : p.line = false → t.link.laDrive = s.link.laDrive
  link : p.link = false → t.link.rest = s.link.rest
  console : p.console = false → t.console = s.console
  store : p.store = false → t.store = s.store
  flash : p.flash = false → t.flash = s.flash
  roster : p.roster = false → t.roster = s.roster
  image : p.image = false → t.image = s.image
  bay : p.bay = false → t.bay = s.bay
  panel : p.panel = false → t.panel = s.panel
  supply : p.supply = false → t.supply = s.supply
  shock : p.shock = false → t.shock = s.shock
  coord : p.coord = false → t.coord = s.coord
  free : p.free = false → t.free = s.free
  conds : p.clear = false → ∀ c, s.hasCond c = true → t.hasCond c = true
  urgent : ∀ n : Note, n.urgent = true → n ∈ s.link.queue → n ∈ t.link.queue
  noteLaw : NoteLaw s.link.queue → NoteLaw t.link.queue
  storeLaw : s.storeLaw → t.storeLaw
  rosterLaw : RosterLaw s.roster → RosterLaw t.roster
  bayLaw : BayLaw s.bay → BayLaw t.bay
  panelLaw : PanelLaw s.panel s.supply → PanelLaw t.panel t.supply
  shockLaw : ShockLaw s.shock → ShockLaw t.shock

@[simp] theorem Effect.refl (p : Parts) (s : State) : Effect p s s := by
  constructor <;> intros <;> first | rfl | assumption

theorem Effect.trans {p : Parts} {s t u : State} (h : Effect p s t) (k : Effect p t u) : Effect p s u where
  pending := k.pending.trans h.pending
  sys := k.sys.trans h.sys
  pins := k.pins.trans h.pins
  config := k.config.trans h.config
  queue := fun e => (k.queue e).trans (h.queue e)
  line := fun e => (k.line e).trans (h.line e)
  link := fun e => (k.link e).trans (h.link e)
  console := fun e => (k.console e).trans (h.console e)
  store := fun e => (k.store e).trans (h.store e)
  flash := fun e => (k.flash e).trans (h.flash e)
  roster := fun e => (k.roster e).trans (h.roster e)
  image := fun e => (k.image e).trans (h.image e)
  bay := fun e => (k.bay e).trans (h.bay e)
  panel := fun e => (k.panel e).trans (h.panel e)
  supply := fun e => (k.supply e).trans (h.supply e)
  shock := fun e => (k.shock e).trans (h.shock e)
  coord := fun e => (k.coord e).trans (h.coord e)
  free := fun e => (k.free e).trans (h.free e)
  conds := fun e c hc => k.conds e c (h.conds e c hc)
  urgent := fun n hu hn => k.urgent n hu (h.urgent n hu hn)
  noteLaw := fun e => k.noteLaw (h.noteLaw e)
  storeLaw := fun e => k.storeLaw (h.storeLaw e)
  rosterLaw := fun e => k.rosterLaw (h.rosterLaw e)
  bayLaw := fun e => k.bayLaw (h.bayLaw e)
  panelLaw := fun e => k.panelLaw (h.panelLaw e)
  shockLaw := fun e => k.shockLaw (h.shockLaw e)

variable {p : Parts} {s t : State}

theorem ite_effect {c : Prop} [Decidable c] {u v : State} (hu : Effect p s u) (hv : Effect p s v) :
    Effect p s (if c then u else v) := by
  split
  · exact hu
  · exact hv

/-! ### The updates -/

theorem withBay_effect {f : Bay → Bay} (h : Effect p s t) (hp : p.bay = true)
    (hl : BayLaw t.bay → BayLaw (f t.bay)) : Effect p s (t.withBay f) :=
  { h with
    bay := fun e => absurd (hp.symm.trans e) (by decide)
    bayLaw := fun e => hl (h.bayLaw e) }

theorem withUnit_effect {f : RosterUnit → RosterUnit} (h : Effect p s t) (hp : p.roster = true)
    (hl : RosterLaw t.roster → RosterLaw (f t.roster)) : Effect p s (t.withUnit f) :=
  { h with
    roster := fun e => absurd (hp.symm.trans e) (by decide)
    rosterLaw := fun e => hl (h.rosterLaw e) }

theorem withStore_effect {f : Store → Store} (h : Effect p s t) (hp : p.store = true)
    (hl : StoreLaw t.store → StoreLaw (f t.store)) : Effect p s (t.withStore f) :=
  { h with
    store := fun e => absurd (hp.symm.trans e) (by decide)
    storeLaw := fun e => ⟨hl (h.storeLaw e).1, (h.storeLaw e).2⟩ }

theorem withShock_effect {f : Shock → Shock} (h : Effect p s t) (hp : p.shock = true)
    (hl : ShockLaw t.shock → ShockLaw (f t.shock)) : Effect p s (t.withShock f) :=
  { h with
    shock := fun e => absurd (hp.symm.trans e) (by decide)
    shockLaw := fun e => hl (h.shockLaw e) }

@[simp] theorem withCoord_effect {f : Coordinator → Coordinator} (h : Effect p s t) (hp : p.coord = true) :
    Effect p s (t.withCoord f) :=
  { h with coord := fun e => absurd (hp.symm.trans e) (by decide) }

theorem withPanel_effect {f : Panel → Panel} (h : Effect p s t) (hp : p.panel = true)
    (hl : PanelLaw t.panel t.supply → PanelLaw (f t.panel) t.supply) : Effect p s (t.withPanel f) :=
  { h with
    panel := fun e => absurd (hp.symm.trans e) (by decide)
    panelLaw := fun e => hl (h.panelLaw e) }

theorem withSupply_effect {f : Supply → Supply} (h : Effect p s t) (hp : p.supply = true)
    (hl : PanelLaw t.panel t.supply → PanelLaw t.panel (f t.supply)) : Effect p s (t.withSupply f) :=
  { h with
    supply := fun e => absurd (hp.symm.trans e) (by decide)
    panelLaw := fun e => hl (h.panelLaw e) }

theorem hasCond_eq {u : State} {c : Condition} (h : u.console.conditions = t.console.conditions) :
    u.hasCond c = t.hasCond c := by simp only [State.hasCond, h]

theorem console_effect {c : Console} (h : Effect p s t) (hp : p.console = true)
    (hd : c.conditions = t.console.conditions) : Effect p s { t with console := c } :=
  { h with
    console := fun e => absurd (hp.symm.trans e) (by decide)
    conds := fun e d hc => (hasCond_eq (u := { t with console := c }) hd).trans (h.conds e d hc) }

theorem clear_effect {c : Console} (h : Effect p s t) (hp : p.console = true) (hr : p.clear = true) :
    Effect p s { t with console := c } :=
  { h with
    console := fun e => absurd (hp.symm.trans e) (by decide)
    conds := fun e => absurd (hr.symm.trans e) (by decide) }

/-- A condition that has joined the set is in it. -/
@[simp] theorem joinCond_self (s : State) (c : Condition) : (s.joinCond c).hasCond c = true := by
  cases c <;>
  · simp only [State.hasCond, State.joinCond, Bits16.has, Bits16.insert, Condition.bit]
    simp

/-- A condition in the set stays in it when another joins. -/
theorem joinCond_mono (s : State) (c d : Condition) (h : s.hasCond d = true) : (s.joinCond c).hasCond d = true := by
  simp only [State.hasCond, State.joinCond, Bits16.has, Bits16.insert] at h ⊢
  simp [h]

@[simp] theorem joinCond_effect {c : Condition} (h : Effect p s t) (hp : p.console = true) :
    Effect p s (t.joinCond c) :=
  { h with
    console := fun e => absurd (hp.symm.trans e) (by decide)
    conds := fun e d hd => joinCond_mono t c d (h.conds e d hd) }

@[simp] theorem setStream_effect {st : Stream} (h : Effect p s t) (hp : p.console = true) :
    Effect p s (t.setStream st) := console_effect h hp rfl

@[simp] theorem spend_effect (h : Effect p s t) (hp : p.free = true) : Effect p s t.spend :=
  { h with free := fun e => absurd (hp.symm.trans e) (by decide) }

@[simp] theorem driveLa_effect {on : Bool} (h : Effect p s t) (hp : p.line = true) : Effect p s (t.driveLa on) :=
  { h with line := fun e => absurd (hp.symm.trans e) (by decide) }

@[simp] theorem setPeer_effect {k : Station} {q : Peer} (h : Effect p s t) (hp : p.link = true) :
    Effect p s (t.setPeer k q) :=
  { h with link := fun e => absurd (hp.symm.trans e) (by decide) }

theorem setQueue_effect {q : List Note} (h : Effect p s t) (hp : p.queue = true)
    (hl : NoteLaw t.link.queue → NoteLaw q) (hu : ∀ n : Note, n.urgent = true → n ∈ t.link.queue → n ∈ q) :
    Effect p s (t.setQueue q) :=
  { h with
    queue := fun e => absurd (hp.symm.trans e) (by decide)
    urgent := fun n u hn => hu n u (h.urgent n u hn)
    noteLaw := fun e => hl (h.noteLaw e) }

theorem setCells_effect {cells : List Host.Cell} (h : Effect p s t) (hp : p.flash = true)
    (hl : t.storeLaw → Flash.wf { t.flash with cells := cells } = true) : Effect p s (t.setCells cells) :=
  { h with
    flash := fun e => absurd (hp.symm.trans e) (by decide)
    storeLaw := fun e => ⟨(h.storeLaw e).1, hl (h.storeLaw e)⟩ }

end Sys2Proof.Machine
end

