-- ==== Sys2Proof/Laws/Flash.lean ====
section
/-! SUPPORT. The canonical form of the flash (R137): every operation over it keeps the form, and what a byte reads
as after it. -/

namespace Sys2Proof.Machine

/-- Cells in canonical form from a bound on. -/
structure CellsFrom (n : Nat) (cells : List Host.Cell) : Prop where
  rising : risingFrom n cells = true
  inside : ∀ c ∈ cells, c.1 < 65536 ∧ c.2 ≠ erasedByte

theorem Flash.wf_iff (f : Flash) : f.wf = true ↔ CellsFrom 0 f.cells := by
  simp only [Flash.wf, Bool.and_eq_true, List.all_eq_true, decide_eq_true_eq, bne_iff_ne]
  exact ⟨fun h => ⟨h.1, h.2⟩, fun h => ⟨h.1, h.2⟩⟩

theorem CellsFrom.nil (n : Nat) : CellsFrom n [] := ⟨rfl, by simp⟩

theorem cellsFrom_cons {n : Nat} {c : Host.Cell} {cells : List Host.Cell} :
    CellsFrom n (c :: cells) ↔ n ≤ c.1 ∧ c.1 < 65536 ∧ c.2 ≠ erasedByte ∧ CellsFrom (c.1 + 1) cells := by
  constructor
  · intro h
    have hr := h.rising
    simp only [risingFrom, Bool.and_eq_true, decide_eq_true_eq] at hr
    exact ⟨hr.1, (h.inside c List.mem_cons_self).1, (h.inside c List.mem_cons_self).2,
      ⟨hr.2, fun d hd => h.inside d (List.mem_cons_of_mem _ hd)⟩⟩
  · intro ⟨h1, h2, h3, h4⟩
    refine ⟨by simp [risingFrom, h1, h4.rising], ?_⟩
    intro d hd
    rcases List.mem_cons.mp hd with rfl | hd
    · exact ⟨h2, h3⟩
    · exact h4.inside d hd

theorem ite_cells {c : Prop} [Decidable c] {n : Nat} {a b : List Host.Cell} (ha : CellsFrom n a)
    (hb : CellsFrom n b) : CellsFrom n (if c then a else b) := by
  split
  · exact ha
  · exact hb

theorem CellsFrom.mono {m n : Nat} {cells : List Host.Cell} (h : CellsFrom n cells) (hm : m ≤ n) :
    CellsFrom m cells := by
  cases cells with
  | nil => exact .nil m
  | cons c rest =>
    rw [cellsFrom_cons] at h ⊢
    exact ⟨Nat.le_trans hm h.1, h.2⟩

theorem CellsFrom.filter {n : Nat} {cells : List Host.Cell} (h : CellsFrom n cells) (f : Host.Cell → Bool) :
    CellsFrom n (cells.filter f) := by
  induction cells generalizing n with
  | nil => exact .nil n
  | cons c rest ih =>
    rw [cellsFrom_cons] at h
    rw [List.filter_cons]
    split
    · exact cellsFrom_cons.mpr ⟨h.1, h.2.1, h.2.2.1, ih h.2.2.2⟩
    · exact (ih h.2.2.2).mono (by omega)

theorem CellsFrom.set {n a : Nat} {b : Byte} {cells : List Host.Cell} (h : CellsFrom n cells) (ha : a < 65536)
    (hn : n ≤ a) : CellsFrom n (flashSet cells a b) := by
  induction cells generalizing n with
  | nil =>
    rw [flashSet]
    split
    · exact .nil n
    · exact cellsFrom_cons.mpr ⟨hn, ha, by assumption, .nil _⟩
  | cons c rest ih =>
    have hc := cellsFrom_cons.mp h
    rw [flashSet]
    split
    · exact cellsFrom_cons.mpr ⟨hc.1, hc.2.1, hc.2.2.1, ih hc.2.2.2 (by omega)⟩
    · have above : CellsFrom (a + 1) (if c.1 = a then rest else c :: rest) := by
        split
        · rename_i e; rw [← e]; exact hc.2.2.2
        · exact cellsFrom_cons.mpr ⟨by omega, hc.2⟩
      dsimp only
      split
      · exact above.mono (by omega)
      · exact cellsFrom_cons.mpr ⟨hn, ha, by assumption, above⟩

theorem CellsFrom.programAll {a : Nat} {bytes : List Byte} {cells : List Host.Cell} (h : CellsFrom 0 cells)
    (ha : a + bytes.length ≤ 65536) : CellsFrom 0 (flashProgramAll cells a bytes) := by
  induction bytes generalizing a cells with
  | nil => exact h
  | cons b bs ih =>
    simp only [List.length_cons] at ha
    exact ih (h.set (by omega) (Nat.zero_le _)) (by omega)

theorem CellsFrom.cutProgram {n a : Nat} {bytes : List Byte} {cells : List Host.Cell} (h : CellsFrom 0 cells)
    (ha : a + bytes.length ≤ 65536) : CellsFrom 0 (cutProgram cells n a bytes) := by
  induction bytes generalizing a cells with
  | nil => exact h
  | cons b bs ih =>
    simp only [List.length_cons] at ha
    exact ih (h.set (by omega) (Nat.zero_le _)) (by omega)

theorem flashRead_length (cells : List Host.Cell) (a n : Nat) : (flashRead cells a n).length = n := by
  induction n generalizing a with
  | zero => rfl
  | succ n ih => simp [flashRead, ih]

theorem CellsFrom.flip {a : Nat} {bits : Byte} {cells : List Host.Cell} (h : CellsFrom 0 cells) (ha : a < 65536) :
    CellsFrom 0 (flashFlip cells a bits) := h.set ha (Nat.zero_le _)

/-- A good record has its two check bytes at least (R205). -/
theorem recordGood_length {bytes : List Byte} (h : recordGood bytes = true) : 2 ≤ bytes.length := by
  cases bytes with
  | nil => simp [recordGood, asUnmarked, endsWithCheck] at h
  | cons b rest =>
    cases rest with
    | nil => simp [recordGood, asUnmarked, endsWithCheck] at h
    | cons c rest => simp

theorem CellsFrom.cutRecord {n a : Nat} {bytes : List Byte} {cells : List Host.Cell} (h : CellsFrom 0 cells)
    (ha : a + bytes.length ≤ 65536) : CellsFrom 0 (cutRecord cells n a bytes) := by
  have hh : CellsFrom 0 (flashProgramAll cells a (bytes.take 12)) := h.programAll (by simp; omega)
  have hc : CellsFrom 0 (Machine.cutProgram (flashProgramAll cells a (bytes.take 12)) n (a + 12) (bytes.drop 12)) := by
    by_cases hl : bytes.length ≤ 12
    · rw [List.drop_eq_nil_of_le hl]; exact hh
    · exact hh.cutProgram (by simp; omega)
  simp only [Machine.cutRecord]
  split
  · rename_i hg
    have := recordGood_length hg
    rw [flashRead_length] at this
    exact hc.flip (by omega)
  · exact hc

theorem CellsFrom.cutConfig {n off : Nat} {seg : List Byte} {cells : List Host.Cell} (h : CellsFrom 0 cells)
    (ha : off + seg.length ≤ 65536) : CellsFrom 0 (cutConfig cells n off seg) := by
  have hc := h.cutProgram (n := n) ha
  simp only [Machine.cutConfig]
  split
  · rename_i hb
    have : 0 < seg.length := by
      cases seg with
      | nil => simp at hb
      | cons b bs => simp
    exact hc.flip (by omega)
  · exact hc

theorem CellsFrom.partErased {m n : Nat} {r : Region} {cells : List Host.Cell} (h : CellsFrom m cells) :
    CellsFrom m (partErased cells n r) := by
  induction cells generalizing m with
  | nil => exact .nil m
  | cons c rest ih =>
    rw [cellsFrom_cons] at h
    rw [Machine.partErased, List.filterMap_cons]
    split
    · exact (ih h.2.2.2).mono (by omega)
    · rename_i d hd
      dsimp only at hd
      split at hd
      · split at hd
        · cases hd
        · cases hd
          exact cellsFrom_cons.mpr ⟨h.1, h.2.1, by assumption, ih h.2.2.2⟩
      · cases hd
        exact cellsFrom_cons.mpr ⟨h.1, h.2.1, h.2.2.1, ih h.2.2.2⟩

theorem CellsFrom.spoilRegion {r : Region} {cells : List Host.Cell} (h : CellsFrom 0 cells) :
    CellsFrom 0 (spoilRegion cells r) := by
  have mem : ∀ c ∈ cells.filter fun c => inRegion r c.1, c.1 < 65536 := fun c hc =>
    (h.inside c (List.mem_filter.mp hc).1).1
  rw [Machine.spoilRegion]
  split
  · have := r.isLt
    exact h.set (by rw [regionBase]; show r.val * 4096 < 65536; omega) (Nat.zero_le _)
  · rename_i c hc
    exact h.set (mem c (by rw [hc]; simp)) (Nat.zero_le _)
  · rename_i c _ _ hc
    exact h.set (mem c (by rw [hc]; simp)) (Nat.zero_le _)

theorem CellsFrom.halfErased {n : Nat} {r : Region} {cells : List Host.Cell} (h : CellsFrom 0 cells) :
    CellsFrom 0 (halfErased cells n r) := ite_cells h.spoilRegion h.partErased

theorem regionBase_le (r : Region) : regionBase r + 4096 ≤ 65536 := by
  have := r.isLt
  show r.val * 4096 + 4096 ≤ 65536
  omega

theorem CellsFrom.cutErase {n : Nat} {r : Region} {cells : List Host.Cell} (h : CellsFrom 0 cells) :
    CellsFrom 0 (cutErase cells n r) := by
  have hc : CellsFrom 0 (Machine.halfErased cells n r) := h.halfErased
  have := regionBase_le r
  exact ite_cells (ite_cells hc (hc.set (by omega) (Nat.zero_le _)))
    (ite_cells (ite_cells (hc.flip (a := 67) (by decide)) (hc.flip (a := 67) (by decide))) hc)

/-! ### What a byte reads as -/

theorem flashByte_cons (c : Host.Cell) (rest : List Host.Cell) (k : Nat) :
    flashByte (c :: rest) k = if c.1 = k then c.2 else flashByte rest k := by
  simp only [flashByte, List.find?_cons]
  by_cases h : c.1 = k
  · simp [h]
  · have h' : (c.1 == k) = false := by simpa using h
    simp only [h', h, if_false]

theorem flashByte_above {n k : Nat} {cells : List Host.Cell} (h : CellsFrom n cells) (hk : k < n) :
    flashByte cells k = erasedByte := by
  induction cells generalizing n with
  | nil => rfl
  | cons c rest ih =>
    have hc := cellsFrom_cons.mp h
    rw [flashByte_cons, if_neg (by omega)]
    exact ih hc.2.2.2 (by omega)

/-- A byte set reads as it was set, and every other byte reads as before. -/
theorem flashByte_set {n a : Nat} {b : Byte} {cells : List Host.Cell} (h : CellsFrom n cells) (k : Nat) :
    flashByte (flashSet cells a b) k = if k = a then b else flashByte cells k := by
  induction cells generalizing n with
  | nil =>
    rw [flashSet]
    by_cases hk : k = a
    · split
      · simp_all [flashByte]
      · simp [flashByte_cons, hk]
    · rw [if_neg hk]
      split
      · rfl
      · rw [flashByte_cons, if_neg (fun e => hk e.symm)]
  | cons c rest ih =>
    have hc := cellsFrom_cons.mp h
    rw [flashSet]
    split
    · rename_i hlt
      rw [flashByte_cons, flashByte_cons, ih hc.2.2.2]
      by_cases h1 : c.1 = k
      · simp only [h1, if_true]; rw [if_neg (by omega)]
      · simp [h1]
    · rename_i hge
      dsimp only
      have above : flashByte (if c.1 = a then rest else c :: rest) k
          = if k = a then erasedByte else flashByte (c :: rest) k := by
        by_cases hk : k = a
        · rw [if_pos hk]
          split
          · exact flashByte_above hc.2.2.2 (by omega)
          · rename_i hne
            exact flashByte_above (cellsFrom_cons.mpr ⟨Nat.le_refl _, hc.2⟩) (by omega)
        · rw [if_neg hk]
          split
          · rw [flashByte_cons, if_neg (by omega)]
          · rfl
      split
      · rename_i hb; rw [above, hb]
      · rw [flashByte_cons, above]
        by_cases hk : k = a
        · simp [hk]
        · rw [if_neg (fun e => hk e.symm), if_neg hk, if_neg hk]

/-- Programming changes no byte outside the bytes programmed. -/
theorem flashByte_programAll {a k : Nat} {bytes : List Byte} {cells : List Host.Cell} (h : CellsFrom 0 cells)
    (ha : a + bytes.length ≤ 65536) (hk : k < a ∨ a + bytes.length ≤ k) :
    flashByte (flashProgramAll cells a bytes) k = flashByte cells k := by
  induction bytes generalizing a cells with
  | nil => rfl
  | cons b bs ih =>
    simp only [List.length_cons] at ha hk
    have hs : CellsFrom 0 (flashProgram cells a b) := h.set (by omega) (Nat.zero_le _)
    rw [flashProgramAll, ih hs (by omega) (by omega), flashProgram, flashByte_set h, if_neg (by omega)]

/-- Programming leaves in each byte the bits that were 1 in both (R137). -/
theorem flashByte_programmed {a i : Nat} {bytes : List Byte} {cells : List Host.Cell} (h : CellsFrom 0 cells)
    (ha : a + bytes.length ≤ 65536) (hi : i < bytes.length) :
    flashByte (flashProgramAll cells a bytes) (a + i) = flashByte cells (a + i) &&& bytes[i] := by
  induction bytes generalizing a i cells with
  | nil => simp at hi
  | cons b bs ih =>
    simp only [List.length_cons] at ha hi
    have hs : CellsFrom 0 (flashProgram cells a b) := h.set (by omega) (Nat.zero_le _)
    rw [flashProgramAll]
    cases i with
    | zero =>
      rw [flashByte_programAll hs (by omega) (by omega), flashProgram, flashByte_set h]
      simp
    | succ i =>
      have := ih hs (a := a + 1) (by omega) (i := i) (by omega)
      rw [show a + (i + 1) = a + 1 + i by omega, this, flashProgram, flashByte_set h, if_neg (by omega)]
      rfl

/-- Erasing returns the bytes of the region to the erased state and no other (R137). -/
theorem flashByte_erase (cells : List Host.Cell) (r : Region) (k : Nat) :
    flashByte (flashErase cells r) k = if inRegion r k then erasedByte else flashByte cells k := by
  induction cells with
  | nil => simp [flashErase, flashByte]
  | cons c rest ih =>
    have e : flashErase (c :: rest) r = if inRegion r c.1 then flashErase rest r else c :: flashErase rest r := by
      rw [flashErase, List.filter_cons]
      cases inRegion r c.1 <;> rfl
    rw [e]
    by_cases hc : c.1 = k
    · cases hr : inRegion r k
      · simp [hc, hr, flashByte_cons]
      · simp [hc, hr, ih]
    · cases hr : inRegion r c.1
      · simp [flashByte_cons, hc, ih]
      · simp [flashByte_cons, hc, ih]

/-! ### What a cut erase leaves (R144, R164) -/

theorem flashRead_append (cells : List Host.Cell) (a m n : Nat) :
    flashRead cells a (m + n) = flashRead cells a m ++ flashRead cells (a + m) n := by
  induction m generalizing a with
  | zero => simp [flashRead]
  | succ m ih => simp [Nat.add_right_comm m 1 n, flashRead, ih, Nat.add_right_comm a 1 m, Nat.add_assoc]

theorem flashRead_congr {cells cells' : List Host.Cell} {a n : Nat}
    (h : ∀ k, a ≤ k → k < a + n → flashByte cells k = flashByte cells' k) :
    flashRead cells a n = flashRead cells' a n := by
  induction n generalizing a with
  | zero => rfl
  | succ n ih => rw [flashRead, flashRead, h a (by omega) (by omega), ih fun k h1 h2 => h k (by omega) (by omega)]

/-- The configuration record is whole where its last two bytes are the check of the others (R205, R209). -/
theorem configWhole_iff (cells : List Host.Cell) :
    configWhole cells = true ↔ [flashByte cells 66, flashByte cells 67] = checkBytes (flashRead cells 0 66) := by
  have e : flashRead cells 0 68 = flashRead cells 0 66 ++ [flashByte cells 66, flashByte cells 67] :=
    flashRead_append cells 0 66 2
  have l := flashRead_length cells 0 66
  have d : (flashRead cells 0 68).drop 66 = [flashByte cells 66, flashByte cells 67] := by
    rw [e, List.drop_append, l, List.drop_eq_nil_of_le (by omega)]; rfl
  have k : (flashRead cells 0 68).take 66 = flashRead cells 0 66 := by
    rw [e, List.take_append, l, List.take_of_length_le (by omega)]; simp
  have n : (flashRead cells 0 68).length = 68 := flashRead_length cells 0 68
  simp only [configWhole, Config.configLength, endsWithCheck, n, d, k]
  simp

/-- A record whose program is cut is bad, whatever the free masks (R142, R155). -/
theorem cutRecord_bad {n a : Nat} {bytes : List Byte} {cells : List Host.Cell} (h : CellsFrom 0 cells)
    (ha : a + bytes.length ≤ 65536) (hl : 12 < bytes.length) :
    recordGood (flashRead (cutRecord cells n a bytes) a bytes.length) = false := by
  have hh : CellsFrom 0 (flashProgramAll cells a (bytes.take 12)) := h.programAll (by simp; omega)
  have hc : CellsFrom 0 (cutProgram (flashProgramAll cells a (bytes.take 12)) n (a + 12) (bytes.drop 12)) :=
    hh.cutProgram (by simp; omega)
  unfold cutRecord
  dsimp only
  generalize cutProgram (flashProgramAll cells a (bytes.take 12)) n (a + 12) (bytes.drop 12) = cut at hc ⊢
  obtain ⟨m, hm⟩ : ∃ m, bytes.length = m + 2 := ⟨bytes.length - 2, by omega⟩
  by_cases hg : recordGood (flashRead cut a bytes.length) = true
  · rw [if_pos hg, hm]
    rw [hm] at hg
    have split : ∀ f : List Host.Cell, flashRead f a (m + 2) =
        flashByte f a :: (flashRead f (a + 1) m ++ [flashByte f (a + 1 + m)]) := fun f => by
      rw [flashRead, flashRead_append]; rfl
    have read : flashRead (flashFlip cut (a + (m + 2) - 1) 1#8) (a + 1) m = flashRead cut (a + 1) m :=
      flashRead_congr fun k _ hk => by rw [flashFlip, flashByte_set hc, if_neg (by omega)]
    have first : flashByte (flashFlip cut (a + (m + 2) - 1) 1#8) a = flashByte cut a := by
      rw [flashFlip, flashByte_set hc, if_neg (by omega)]
    have last : flashByte (flashFlip cut (a + (m + 2) - 1) 1#8) (a + 1 + m) = flashByte cut (a + 1 + m) ^^^ 1#8 := by
      rw [flashFlip, flashByte_set hc, if_pos (by omega), show a + (m + 2) - 1 = a + 1 + m by omega]
    rw [split, recordGood, asUnmarked] at hg ⊢
    rw [read, first, last]
    rw [← List.cons_append] at hg ⊢
    exact endsWithCheck_flip hg
  · rw [if_neg hg, Bool.not_eq_true] at *
    exact hg

/-- A whole configuration record whose last byte changes is whole no more. -/
theorem configWhole_flip {bits : Byte} {cells : List Host.Cell} (h : CellsFrom 0 cells) (hb : bits ≠ 0)
    (hw : configWhole cells = true) : configWhole (flashFlip cells 67 bits) = false := by
  rw [configWhole_iff] at hw
  rw [Bool.eq_false_iff, ne_eq, configWhole_iff]
  have read : flashRead (flashFlip cells 67 bits) 0 66 = flashRead cells 0 66 :=
    flashRead_congr fun k _ hk => by rw [flashFlip, flashByte_set h, if_neg (by omega)]
  rw [read, ← hw]
  simp only [flashFlip, flashByte_set h, List.cons.injEq, and_true, if_true, Nat.reduceEqDiff, if_false, true_and]
  intro e
  apply hb
  have := congrArg (flashByte cells 67 ^^^ ·) e
  simpa [← BitVec.xor_assoc] using this

/-- What a cut erase of region 0 leaves is no whole configuration record (R164). -/
theorem cutErase_check {n : Nat} {cells : List Host.Cell} (h : CellsFrom 0 cells) :
    configWhole (cutErase cells n 0) = false := by
  have hc : CellsFrom 0 (halfErased cells n 0) := h.halfErased
  have outer : inRing 0 = false := by decide
  unfold cutErase
  dsimp only
  generalize halfErased cells n 0 = half at hc ⊢
  rw [outer, if_neg (by decide), beq_self_eq_true, Bool.true_and]
  by_cases hw : configWhole half = true
  · rw [if_pos hw]
    split
    · exact configWhole_flip hc (by decide) hw
    · exact configWhole_flip hc (by decide) hw
  · rw [if_neg hw]
    exact Bool.eq_false_iff.mpr hw

theorem regionErased_set {r : Region} {a : Nat} {b : Byte} {cells : List Host.Cell} (hr : inRegion r a = true)
    (hb : b ≠ erasedByte) : regionErased (flashSet cells a b) r = false := by
  simp only [regionErased, Bool.not_eq_false', List.any_eq_true]
  refine ⟨(a, b), ?_, hr⟩
  induction cells with
  | nil => simp [flashSet, hb]
  | cons c rest ih =>
    rw [flashSet]
    split
    · exact List.mem_cons_of_mem _ ih
    · dsimp only
      exact List.mem_cons_self

theorem mem_flashSet {a : Nat} {b : Byte} {c : Host.Cell} {cells : List Host.Cell} (hc : c ∈ cells) (ha : c.1 ≠ a) :
    c ∈ flashSet cells a b := by
  induction cells with
  | nil => cases hc
  | cons d rest ih =>
    rw [flashSet]
    rcases List.mem_cons.mp hc with rfl | hc
    · split
      · exact List.mem_cons_self
      · dsimp only
        split <;> simp
    · split
      · exact List.mem_cons_of_mem _ (ih hc)
      · by_cases hd : d.1 = a
        · simp only [hd, if_true]
          split <;> simp [hc]
        · simp only [hd, if_false]
          split <;> simp [hc]

theorem spoilRegion_written {r : Region} {cells : List Host.Cell} (h : CellsFrom 0 cells) :
    regionErased (spoilRegion cells r) r = false := by
  rw [spoilRegion]
  split
  · refine regionErased_set ?_ (by decide)
    simp [inRegion, regionBase, Config.regionSize]
  · rename_i c hc
    have : c ∈ cells.filter fun c => inRegion r c.1 := by rw [hc]; simp
    refine regionErased_set (List.mem_filter.mp this).2 ?_
    split <;> decide
  · rename_i c rest hn hc
    cases rest with
    | nil => exact absurd rfl hn
    | cons d rest =>
      have hf := h.filter fun c => inRegion r c.1
      rw [hc, cellsFrom_cons, cellsFrom_cons] at hf
      have hd : d ∈ cells.filter fun c => inRegion r c.1 := by rw [hc]; simp
      simp only [regionErased, Bool.not_eq_false', List.any_eq_true]
      exact ⟨d, mem_flashSet (List.mem_filter.mp hd).1 (by omega), (List.mem_filter.mp hd).2⟩

theorem halfErased_written {n : Nat} {r : Region} {cells : List Host.Cell} (h : CellsFrom 0 cells) :
    regionErased (halfErased cells n r) r = false := by
  unfold halfErased
  dsimp only
  split
  · exact spoilRegion_written h
  · rename_i hp
    rw [Bool.or_eq_true, not_or, Bool.not_eq_true] at hp
    exact hp.1

theorem flashByte_erased {cells : List Host.Cell} {r : Region} (h : regionErased cells r = true) {k : Nat}
    (hk : inRegion r k = true) : flashByte cells k = erasedByte := by
  simp only [regionErased, Bool.not_eq_true', List.any_eq_false] at h
  have : cells.find? (fun c => c.1 == k) = none := by
    rw [List.find?_eq_none]
    intro c hc e
    simp only [beq_iff_eq] at e
    exact h c hc (e ▸ hk)
  simp [flashByte, this]

/-- A region that shows no cut erase begins with a record, whose length is no erased byte (R149). -/
theorem second_programmed {cells : List Host.Cell} {r : Region} (h : showsCutErase cells r = false) :
    flashByte cells (regionBase r + 1) ≠ erasedByte := by
  simp only [showsCutErase, Bool.or_eq_false_iff, beq_eq_false_iff_ne, ne_eq] at h
  obtain ⟨first, whole⟩ := h
  intro erased
  have stops : walkRegion cells r = ([], 4096) := by
    rw [walkRegion, walkFrom, if_neg (by decide)]
    dsimp only
    have long : headerOk (flashByte cells (regionBase r + 0)).toNat (flashByte cells (regionBase r + 0 + 1)).toNat
        = false := by
      rw [Nat.add_zero, erased, headerOk]
      exact Bool.and_eq_false_imp.mpr fun _ => by decide
    rw [Nat.add_zero, if_neg first]
    rw [Nat.add_zero] at long
    rw [long]
    rfl
  rw [tailDamaged, walkEnd, stops] at whole
  simp only [List.getLast?_nil, Nat.add_zero, Bool.and_eq_false_iff, bne_eq_false_iff_eq] at whole
  rcases whole with hw | hw
  · exact absurd hw (by decide)
  · exact first hw

/-- What a cut erase leaves of a region of the log ring shows the start scan an erased first byte, a garbled header or a
damaged tail (R149). -/
theorem cutErase_shows {n : Nat} {r : Region} {cells : List Host.Cell} (h : CellsFrom 0 cells)
    (hr : inRing r = true) : showsCutErase (cutErase cells n r) r = true := by
  unfold cutErase
  dsimp only
  rw [if_pos hr]
  split
  · assumption
  · rw [showsCutErase, flashByte_set h.halfErased, if_pos rfl]
    rfl

/-- What a cut erase leaves of a region but region 0 is not blank (R144). -/
theorem cutErase_written {n : Nat} {r : Region} {cells : List Host.Cell} (h : CellsFrom 0 cells) (hr : r ≠ 0) :
    regionErased (cutErase cells n r) r = false := by
  have hc : CellsFrom 0 (halfErased cells n r) := h.halfErased
  have hw := halfErased_written (n := n) (r := r) h
  have apart : (r == 0) = false := beq_eq_false_iff_ne.mpr hr
  unfold cutErase
  dsimp only
  generalize halfErased cells n r = half at hc hw ⊢
  rw [apart, Bool.false_and, if_neg (by decide : ¬ false = true)]
  split
  · split
    · exact hw
    · rename_i hs
      rw [Bool.not_eq_true] at hs
      rw [Bool.eq_false_iff]
      intro blank
      have := flashByte_erased blank (k := regionBase r + 1) (by
        simp only [inRegion, regionBase, Config.regionSize, beq_iff_eq]
        omega)
      rw [flashByte_set hc, if_neg (by omega)] at this
      exact second_programmed hs this
  · exact hw

/-! ### What an abandoned configuration program leaves (R166) -/

/-- Bytes read with one of them apart. -/
theorem flashRead_apart (cells : List Host.Cell) {a i n : Nat} (hi : i < n) :
    flashRead cells a n =
      flashRead cells a i ++ flashByte cells (a + i) :: flashRead cells (a + i + 1) (n - 1 - i) := by
  rw [show n = i + ((n - 1 - i) + 1) by omega, flashRead_append, flashRead,
    show i + (n - 1 - i + 1) - 1 - i = n - 1 - i by omega]

/-- The bytes read of a flash of which one byte has its lowest bit turned over. -/
theorem flashRead_flip {cells : List Host.Cell} (h : CellsFrom 0 cells) {a i n : Nat} (hi : i < n) :
    flashRead (flashFlip cells (a + i) 1#8) a n = flashRead cells a i ++ (flashByte cells (a + i) ^^^ 1#8) ::
      flashRead cells (a + i + 1) (n - 1 - i) := by
  rw [flashRead_apart _ hi]
  congr 1
  · exact flashRead_congr fun k _ hk => by rw [flashFlip, flashByte_set h, if_neg (by omega)]
  · congr 1
    · rw [flashFlip, flashByte_set h, if_pos rfl]
    · exact flashRead_congr fun k hk _ => by rw [flashFlip, flashByte_set h, if_neg (by omega)]

theorem flashRead_erased {cells : List Host.Cell} (h : regionErased cells 0 = true) {a n : Nat}
    (ha : a + n ≤ 4096) : flashRead cells a n = List.replicate n 255#8 := by
  induction n generalizing a with
  | zero => rfl
  | succ n ih =>
    rw [flashRead, ih (by omega), List.replicate_succ, flashByte_erased h]
    · rfl
    · simp only [inRegion, Config.regionSize, beq_iff_eq]
      show a / 4096 = 0
      omega

/-- What an abandoned configuration program leaves in region 0 is not blank, and no whole record (R166). -/
theorem cutConfig_bad {n off : Nat} {seg : List Byte} {cells : List Host.Cell} (h : CellsFrom 0 cells)
    (hs : seg ≠ []) (ha : off + seg.length ≤ 68) :
    regionErased (cutConfig cells n off seg) 0 = false ∧ configWhole (cutConfig cells n off seg) = false := by
  have hc := h.cutProgram (n := n) (a := off) (bytes := seg) (by omega)
  have hl : 0 < seg.length := List.length_pos_iff.mpr hs
  unfold cutConfig
  dsimp only
  generalize cutProgram cells n off seg = cut at hc ⊢
  have some : (!seg.isEmpty) = true := by simpa using hs
  rw [some, Bool.true_and]
  by_cases he : regionErased cut 0 = true
  · rw [he, Bool.true_or, if_pos rfl]
    have hb : flashByte cut off = 255#8 := flashByte_erased he (by
      simp only [inRegion, Config.regionSize, beq_iff_eq]
      show off / 4096 = 0
      omega)
    refine ⟨?_, ?_⟩
    · refine regionErased_set ?_ ?_
      · simp only [inRegion, Config.regionSize, beq_iff_eq]
        show off / 4096 = 0
        omega
      · rw [hb]; decide
    · have r := flashRead_flip hc (a := 0) (i := off) (n := 68) (by omega)
      rw [Nat.zero_add, hb, flashRead_erased he (by omega), flashRead_erased he (by omega)] at r
      rw [configWhole, Config.configLength, r]
      exact erasedRecord_bad (by omega)
  · by_cases hw : configWhole cut = true
    · rw [hw, Bool.or_true, if_pos rfl]
      have r := flashRead_flip hc (a := 0) (i := off) (n := 68) (by omega)
      rw [Nat.zero_add] at r
      refine ⟨?_, ?_⟩
      · rw [Bool.eq_false_iff]
        intro blank
        have b := flashRead_flip (hc.flip (a := off) (bits := 1#8) (by omega)) (a := 0) (i := off) (n := 68) (by omega)
        have same : flashRead (flashFlip (flashFlip cut off 1#8) off 1#8) 0 68 = flashRead cut 0 68 :=
          flashRead_congr fun k _ _ => by
            have hf := hc.flip (a := off) (bits := 1#8) (by omega)
            rw [flashFlip, flashByte_set hf]
            split
            · rename_i e
              rw [flashFlip, flashByte_set hc, if_pos rfl, BitVec.xor_assoc, e]
              simp
            · rename_i e
              rw [flashFlip, flashByte_set hc, if_neg e]
        have hb : flashByte (flashFlip cut off 1#8) off = 255#8 := flashByte_erased blank (by
          simp only [inRegion, Config.regionSize, beq_iff_eq]
          show off / 4096 = 0
          omega)
        rw [Nat.zero_add, same, hb, flashRead_erased blank (by omega), flashRead_erased blank (by omega)] at b
        rw [configWhole, Config.configLength, b] at hw
        exact absurd hw (by rw [Bool.not_eq_true]; exact erasedRecord_bad (by omega))
      · rw [configWhole, Config.configLength] at hw ⊢
        rw [flashRead_apart cut (show off < 68 by omega), Nat.zero_add] at hw
        rw [r]
        exact endsWithCheck_flip hw
    · rw [Bool.not_eq_true] at he hw
      rw [he, hw]
      exact ⟨he, hw⟩

/-! ### What flash work that is cut leaves as it was (R155) -/

/-- Programming that is cut changes no byte outside the bytes programmed. -/
theorem flashByte_cutProgram {n a k : Nat} {bytes : List Byte} {cells : List Host.Cell} (h : CellsFrom 0 cells)
    (ha : a + bytes.length ≤ 65536) (hk : k < a ∨ a + bytes.length ≤ k) :
    flashByte (cutProgram cells n a bytes) k = flashByte cells k := by
  induction bytes generalizing a cells with
  | nil => rfl
  | cons b bs ih =>
    simp only [List.length_cons] at ha hk
    have hs : CellsFrom 0 (flashProgram cells a (b ||| Config.cutMask n a)) := h.set (by omega) (Nat.zero_le _)
    rw [cutProgram, ih hs (by omega) (by omega), flashProgram, flashByte_set h, if_neg (by omega)]

theorem flashByte_flip {a k : Nat} {bits : Byte} {cells : List Host.Cell} (h : CellsFrom 0 cells) (hk : k ≠ a) :
    flashByte (flashFlip cells a bits) k = flashByte cells k := by
  rw [flashFlip, flashByte_set h, if_neg hk]

theorem flashByte_cutRecord {n a k : Nat} {bytes : List Byte} {cells : List Host.Cell} (h : CellsFrom 0 cells)
    (ha : a + bytes.length ≤ 65536) (hk : k < a ∨ a + bytes.length ≤ k) :
    flashByte (cutRecord cells n a bytes) k = flashByte cells k := by
  have hh : CellsFrom 0 (flashProgramAll cells a (bytes.take 12)) := h.programAll (by simp; omega)
  have head : flashByte (flashProgramAll cells a (bytes.take 12)) k = flashByte cells k :=
    flashByte_programAll h (by simp; omega) (by simp; omega)
  have hc : CellsFrom 0 (cutProgram (flashProgramAll cells a (bytes.take 12)) n (a + 12) (bytes.drop 12)) ∧
      flashByte (cutProgram (flashProgramAll cells a (bytes.take 12)) n (a + 12) (bytes.drop 12)) k
        = flashByte cells k := by
    by_cases hl : bytes.length ≤ 12
    · rw [List.drop_eq_nil_of_le hl]; exact ⟨hh, head⟩
    · exact ⟨hh.cutProgram (by simp; omega), (flashByte_cutProgram hh (by simp; omega) (by simp; omega)).trans head⟩
  unfold cutRecord
  dsimp only
  split
  · rename_i hg
    have := recordGood_length hg
    rw [flashRead_length] at this
    rw [flashByte_flip hc.1 (by omega)]
    exact hc.2
  · exact hc.2

theorem flashByte_cutConfig {n off k : Nat} {seg : List Byte} {cells : List Host.Cell} (h : CellsFrom 0 cells)
    (ha : off + seg.length ≤ 65536) (hk : k < off ∨ off + seg.length ≤ k) :
    flashByte (cutConfig cells n off seg) k = flashByte cells k := by
  have hp := flashByte_cutProgram (n := n) h ha hk
  unfold cutConfig
  dsimp only
  split
  · rename_i hb
    have : 0 < seg.length := by
      cases seg with
      | nil => simp at hb
      | cons b bs => simp
    rw [flashByte_flip (h.cutProgram ha) (by omega)]
    exact hp
  · exact hp

theorem flashByte_partErased {n k : Nat} {r : Region} {cells : List Host.Cell} (hk : inRegion r k = false) :
    flashByte (partErased cells n r) k = flashByte cells k := by
  induction cells with
  | nil => rfl
  | cons c rest ih =>
    have e : partErased (c :: rest) n r = (if inRegion r c.1 then
        (if c.2 ||| Config.cutMask n c.1 = erasedByte then none else some (c.1, c.2 ||| Config.cutMask n c.1))
        else some c).toList ++ partErased rest n r := by
      rw [partErased, List.filterMap_cons]
      dsimp only
      split
      · rename_i h; rw [h]; rfl
      · rename_i h; rw [h]; rfl
    rw [e]
    by_cases hc : inRegion r c.1 = true
    · have hne : c.1 ≠ k := fun e => by rw [e, hk] at hc; cases hc
      rw [if_pos hc, flashByte_cons, if_neg hne]
      split
      · exact ih
      · rw [Option.toList_some, List.singleton_append, flashByte_cons, if_neg hne]; exact ih
    · rw [if_neg hc, Option.toList_some, List.singleton_append, flashByte_cons, flashByte_cons, ih]

theorem flashByte_spoilRegion {k : Nat} {r : Region} {cells : List Host.Cell} (h : CellsFrom 0 cells)
    (hk : inRegion r k = false) : flashByte (spoilRegion cells r) k = flashByte cells k := by
  have apart : ∀ a, inRegion r a = true → k ≠ a := fun a ha e => by rw [← e, hk] at ha; cases ha
  have mem : ∀ c ∈ cells.filter fun c => inRegion r c.1, inRegion r c.1 = true := fun c hc =>
    (List.mem_filter.mp hc).2
  rw [spoilRegion]
  split
  · rw [flashByte_set h, if_neg (apart _ (by simp [inRegion, regionBase, Config.regionSize]))]
  · rename_i c hc
    rw [flashByte_set h, if_neg (apart _ (mem c (by rw [hc]; simp)))]
  · rename_i c _ _ hc
    rw [flashByte_set h, if_neg (apart _ (mem c (by rw [hc]; simp)))]

/-- An erase that is cut changes no byte outside its region. -/
theorem flashByte_cutErase {n k : Nat} {r : Region} {cells : List Host.Cell} (h : CellsFrom 0 cells)
    (hk : inRegion r k = false) : flashByte (cutErase cells n r) k = flashByte cells k := by
  have apart : ∀ a, inRegion r a = true → k ≠ a := fun a ha e => by rw [← e, hk] at ha; cases ha
  have hc : CellsFrom 0 (halfErased cells n r) := h.halfErased
  have half : flashByte (halfErased cells n r) k = flashByte cells k := by
    unfold halfErased
    dsimp only
    split
    · exact flashByte_spoilRegion h hk
    · exact flashByte_partErased hk
  unfold cutErase
  dsimp only
  split
  · split
    · exact half
    · rw [flashByte_set hc, if_neg (apart _ (by simp [inRegion, regionBase, Config.regionSize]))]
      exact half
  · split
    · rename_i hz
      rw [Bool.and_eq_true, beq_iff_eq] at hz
      have : inRegion r 67 = true := by rw [hz.1]; decide
      split
      · rw [flashByte_flip hc (apart _ this)]; exact half
      · rw [flashByte_flip hc (apart _ this)]; exact half
    · exact half

end Sys2Proof.Machine
end

