-- ==== Sys2Proof/Laws/Queues.lean ====
section
/-! SUPPORT. The laws of the outgoing note queue (R174, R175) and of the write queue (R141): their tables keep
them. -/

namespace Sys2Proof.Machine

/-! ### Lists whose members of one kind stand ahead -/

section Ahead
variable {α : Type} {f : α → Bool}

theorem ahead_tail {a : α} {q : List α} (h : a :: q = (a :: q).filter f ++ (a :: q).filter fun b => !f b) :
    q = q.filter f ++ q.filter fun b => !f b := by
  by_cases hu : f a = true
  · simpa [List.filter_cons, hu] using h
  · have hu' : f a = false := by simpa using hu
    rw [List.filter_cons_of_neg (by simp [hu']), List.filter_cons_of_pos (by simp [hu'])] at h
    cases hq : q.filter f with
    | nil =>
      rw [hq] at h
      simpa using h
    | cons m r =>
      rw [hq] at h
      simp only [List.cons_append, List.cons.injEq] at h
      have hm : m ∈ q.filter f := by rw [hq]; exact List.mem_cons_self
      rw [← h.1] at hm
      simp [hu'] at hm

theorem ahead_filter {q : List α} (g : α → Bool) (h : q = q.filter f ++ q.filter fun b => !f b) :
    q.filter g = (q.filter g).filter f ++ (q.filter g).filter fun b => !f b := by
  have hq := congrArg (List.filter g) h
  rw [List.filter_append] at hq
  rw [hq]
  simp only [List.filter_append, List.filter_filter]
  have e1 : (q.filter fun a => f a && (g a && !f a)) = [] := by
    apply List.filter_eq_nil_iff.mpr; intro a _; cases f a <;> simp
  have e2 : (q.filter fun a => !f a && (g a && f a)) = [] := by
    apply List.filter_eq_nil_iff.mpr; intro a _; cases f a <;> simp
  rw [e1, e2, List.append_nil, List.nil_append]
  congr 1 <;> apply List.filter_congr <;> intro a _ <;> cases g a <;> cases f a <;> rfl

theorem ahead_append {q : List α} {a : α} (ha : f a = false) (h : q = q.filter f ++ q.filter fun b => !f b) :
    q ++ [a] = (q ++ [a]).filter f ++ (q ++ [a]).filter fun b => !f b := by
  simp only [List.filter_append, List.filter_cons, ha, List.filter_nil]
  simp only [Bool.not_false, if_true, Bool.false_eq_true, if_false, List.append_nil, ← List.append_assoc, ← h]

theorem ahead_insert {q : List α} {a : α} (ha : f a = true) :
    (q.filter f ++ a :: q.filter fun b => !f b)
      = (q.filter f ++ a :: q.filter fun b => !f b).filter f
        ++ (q.filter f ++ a :: q.filter fun b => !f b).filter fun b => !f b := by
  have e1 : (q.filter fun b => f b && !f b) = [] := by
    apply List.filter_eq_nil_iff.mpr; intro a _; cases f a <;> simp
  have e2 : (q.filter fun b => !f b && f b) = [] := by
    apply List.filter_eq_nil_iff.mpr; intro a _; cases f a <;> simp
  rw [List.filter_append, List.filter_append, List.filter_cons_of_pos ha, List.filter_cons_of_neg (by simp [ha]),
    List.filter_filter, List.filter_filter, List.filter_filter, List.filter_filter, e1, e2]
  simp

theorem ahead_last {q : List α} {a : α} (h : q = q.filter f ++ q.filter fun b => !f b)
    (hl : q.getLast? = some a) (ha : f a = false) :
    (q.dropLast).countP (fun b => !f b) + 1 = q.countP fun b => !f b := by
  obtain ⟨r, rfl⟩ : ∃ r, q = r ++ [a] := List.getLast?_eq_some_iff.mp hl
  simp [List.countP_append, ha]

theorem countP_filter_le (q : List α) (g k : α → Bool) : (q.filter g).countP k ≤ q.countP k := by
  rw [List.countP_filter]
  exact List.countP_mono_left fun x _ hx => by simp at hx; simp [hx.1]

theorem countP_split (q : List α) (g k : α → Bool) :
    (q.filter g).countP k + (q.filter fun b => !g b).countP k = q.countP k := by
  induction q with
  | nil => rfl
  | cons a q ih => cases hg : g a <;> simp [hg, List.countP_cons] <;> omega

theorem length_split (q : List α) (g : α → Bool) :
    (q.filter g).length + (q.filter fun b => !g b).length = q.length := by
  have := countP_split q g fun _ => true
  simpa using this

theorem countP_dropLast_le (q : List α) (k : α → Bool) : q.dropLast.countP k ≤ q.countP k :=
  (List.dropLast_sublist q).countP_le

end Ahead

/-! ### The outgoing note queue -/

theorem NoteLaw.nil : NoteLaw [] := by constructor <;> simp [ordinaryCount]

theorem NoteLaw.tail {n : Note} {q : List Note} (h : NoteLaw (n :: q)) : NoteLaw q where
  room := by have := h.room; simp at this; omega
  ordinary := by have := h.ordinary; simp only [ordinaryCount, List.countP_cons] at this ⊢; omega
  ahead := ahead_tail h.ahead
  beacons := by have := h.beacons; simp only [List.countP_cons] at this; omega
  rosters := by have := h.rosters; simp only [List.countP_cons] at this; omega

theorem NoteLaw.filter {q : List Note} (h : NoteLaw q) (f : Note → Bool) : NoteLaw (q.filter f) where
  room := Nat.le_trans (List.length_filter_le ..) h.room
  ordinary := Nat.le_trans (countP_filter_le ..) h.ordinary
  ahead := ahead_filter f h.ahead
  beacons := Nat.le_trans (countP_filter_le ..) h.beacons
  rosters := Nat.le_trans (countP_filter_le ..) h.rosters

theorem urgent_of_kind {m n : Note} (h : m.kind = n.kind) : m.urgent = n.urgent := by
  simp only [Note.urgent, h]

theorem replaceKind_countP (q : List Note) (n : Note) (g : Kind → Bool) :
    (replaceKind q n).countP (fun m => g m.kind) = q.countP fun m => g m.kind := by
  induction q with
  | nil => rfl
  | cons a q ih =>
    simp only [replaceKind, List.map_cons, List.countP_cons] at ih ⊢
    rw [ih]
    by_cases h : a.kind = n.kind <;> simp [h]

theorem replaceKind_filter (q : List Note) (n : Note) (g : Kind → Bool) :
    (replaceKind q n).filter (fun m => g m.kind) = replaceKind (q.filter fun m => g m.kind) n := by
  induction q with
  | nil => rfl
  | cons a q ih =>
    simp only [replaceKind, List.map_cons, List.filter_cons] at ih ⊢
    by_cases h : a.kind = n.kind
    · cases hg : g n.kind <;> simp only [h, hg, beq_self_eq_true, if_true, ih, Bool.false_eq_true, if_false,
        List.map_cons]
    · have h' : (a.kind == n.kind) = false := by simpa using h
      cases hg : g a.kind <;> simp only [h', hg, if_false, Bool.false_eq_true, ih, if_true, List.map_cons]

theorem NoteLaw.replace {q : List Note} (h : NoteLaw q) (n : Note) : NoteLaw (replaceKind q n) where
  room := by simpa [replaceKind] using h.room
  ordinary := by
    have := replaceKind_countP q n fun k => !urgentKind k
    exact Nat.le_trans (Nat.le_of_eq this) h.ordinary
  ahead := by
    have e1 := replaceKind_filter q n urgentKind
    have e2 := replaceKind_filter q n fun k => !urgentKind k
    have := congrArg (replaceKind · n) h.ahead
    simp only [replaceKind, List.map_append] at this e1 e2 ⊢
    exact this.trans (congr (congrArg _ e1.symm) e2.symm)
  beacons := (replaceKind_countP q n fun k => k == .beacon) ▸ h.beacons
  rosters := (replaceKind_countP q n fun k => k == .roster) ▸ h.rosters

theorem kinds_of_urgent {n : Note} (h : n.urgent = true) : n.kind ≠ .beacon ∧ n.kind ≠ .roster := by
  constructor <;> intro e <;> simp [Note.urgent, e, urgentKind] at h

theorem NoteLaw.append {q : List Note} {n : Note} (h : NoteLaw q) (hu : n.urgent = false)
    (hr : roomOrdinary q = true) (hk : (replacingKind n.kind && q.any fun m => m.kind == n.kind) = false) :
    NoteLaw (q ++ [n]) := by
  simp [roomOrdinary, Config.noteOrdinary, Config.noteEntries] at hr
  have none_of : ∀ k, replacingKind k = true → n.kind = k → q.countP (fun m => m.kind == k) = 0 := by
    intro k hk' he
    rw [he, hk', Bool.true_and, List.any_eq_false] at hk
    exact List.countP_eq_zero.mpr fun m hm => hk m hm
  refine ⟨by simp; omega, ?_, ahead_append hu h.ahead, ?_, ?_⟩
  · simp only [ordinaryCount, List.countP_append, List.countP_cons, List.countP_nil, hu] at hr ⊢
    simp; omega
  · simp only [List.countP_append, List.countP_cons, List.countP_nil]
    by_cases e : n.kind = .beacon
    · simp [none_of _ rfl e, e]
    · have := h.beacons; simp [e]; exact this
  · simp only [List.countP_append, List.countP_cons, List.countP_nil]
    by_cases e : n.kind = .roster
    · simp [none_of _ rfl e, e]
    · have := h.rosters; simp [e]; exact this

theorem NoteLaw.insert {q : List Note} {n : Note} (hu : n.urgent = true) (hl : q.length ≤ 5)
    (ho : ordinaryCount q ≤ 5) (hb : (q.countP fun m => m.kind == .beacon) ≤ 1)
    (hr : (q.countP fun m => m.kind == .roster) ≤ 1) : NoteLaw (insertUrgent q n) := by
  have hk := kinds_of_urgent hu
  have count : ∀ g : Note → Bool, (insertUrgent q n).countP g = q.countP g + if g n then 1 else 0 := by
    intro g
    have := countP_split q Note.urgent g
    simp only [insertUrgent, List.countP_append, List.countP_cons]
    omega
  refine ⟨?_, ?_, ahead_insert hu, ?_, ?_⟩
  · have := length_split q Note.urgent
    simp only [insertUrgent, List.length_append, List.length_cons]
    omega
  · rw [ordinaryCount, count]; simpa [hu, ordinaryCount] using ho
  · rw [count]; simpa [hk.1] using hb
  · rw [count]; simpa [hk.2] using hr

/-- What the table of R175 places keeps the law of the queue. -/
theorem placeNote_placed {q r : List Note} {n : Note} (h : NoteLaw q) (hp : placeNote q n = .placed r) :
    NoteLaw r := by
  unfold placeNote at hp
  split at hp
  · cases hp; exact h.replace n
  · rename_i hk
    split at hp
    · rename_i hu
      split at hp
      · rename_i hr
        cases hp
        exact h.append (by simpa using hu) hr (by simpa using hk)
      · cases hp
    · rename_i hu
      split at hp
      · rename_i hl
        cases hp
        exact NoteLaw.insert (by simpa using hu) (by simp [Config.noteEntries] at hl; omega) h.ordinary h.beacons
          h.rosters
      · split at hp
        · split at hp <;> cases hp
        · cases hp

/-- What the table of R175 leaves after a displacement keeps the law of the queue. -/
theorem placeNote_displaced {q r : List Note} {m n : Note} (h : NoteLaw q) (hp : placeNote q n = .displaced r m) :
    NoteLaw r := by
  unfold placeNote at hp
  split at hp
  · cases hp
  · split at hp
    · split at hp <;> cases hp
    · rename_i hu
      split at hp
      · cases hp
      · split at hp
        · rename_i k hk
          split at hp
          · cases hp
          · rename_i hku
            cases hp
            have hlast := ahead_last h.ahead hk (by simpa using hku)
            refine NoteLaw.insert (by simpa using hu) ?_ ?_ ?_ ?_
            · have := h.room; simp; omega
            · exact Nat.le_trans (countP_dropLast_le ..) h.ordinary
            · exact Nat.le_trans (countP_dropLast_le ..) h.beacons
            · exact Nat.le_trans (countP_dropLast_le ..) h.rosters
        · cases hp

/-- An urgent note stays in the queue through what the table of R175 places. -/
theorem placeNote_placed_urgent {q r : List Note} {n m : Note} (hp : placeNote q n = .placed r)
    (hu : m.urgent = true) (hm : m ∈ q) : m ∈ r := by
  unfold placeNote at hp
  split at hp
  · rename_i hk
    cases hp
    simp only [Bool.and_eq_true] at hk
    have hr := kinds_of_urgent hu
    refine List.mem_map.mpr ⟨m, hm, if_neg ?_⟩
    intro e
    have hk' := hk.1
    rw [← eq_of_beq e] at hk'
    simp [replacingKind, hr.1, hr.2] at hk'
  · split at hp
    · split at hp
      · cases hp; exact List.mem_append_left _ hm
      · cases hp
    · split at hp
      · cases hp; exact List.mem_append_left _ (List.mem_filter.mpr ⟨hm, hu⟩)
      · split at hp
        · split at hp <;> cases hp
        · cases hp

/-- An urgent note stays in the queue through a displacement. -/
theorem placeNote_displaced_urgent {q r : List Note} {n d m : Note} (hp : placeNote q n = .displaced r d)
    (hu : m.urgent = true) (hm : m ∈ q) : m ∈ r := by
  unfold placeNote at hp
  split at hp
  · cases hp
  · split at hp
    · split at hp <;> cases hp
    · split at hp
      · cases hp
      · split at hp
        · rename_i k hk
          split at hp
          · cases hp
          · rename_i hku
            cases hp
            obtain ⟨l, rfl⟩ := List.getLast?_eq_some_iff.mp hk
            rw [List.dropLast_concat]
            rcases List.mem_append.mp hm with hm | hm
            · exact List.mem_append_left _ (List.mem_filter.mpr ⟨hm, hu⟩)
            · rw [List.mem_singleton.mp hm] at hu
              exact absurd hu hku
        · cases hp

/-- An urgent note is in the queue where the table of R175 takes it. -/
theorem placeNote_urgent_mem {q r : List Note} {n : Note} (hu : n.urgent = true)
    (hp : placeNote q n = .placed r ∨ ∃ m, placeNote q n = .displaced r m) : n ∈ r := by
  have hk := kinds_of_urgent hu
  unfold placeNote at hp
  rw [if_neg (by simp [replacingKind, hk.1, hk.2]), if_neg (by simp [hu])] at hp
  have here : ∀ l : List Note, n ∈ insertUrgent l n :=
    fun l => List.mem_append_right _ List.mem_cons_self
  split at hp
  · rcases hp with hp | ⟨m, hp⟩
    · cases hp; exact here _
    · cases hp
  · split at hp
    · split at hp
      · rcases hp with hp | ⟨m, hp⟩ <;> cases hp
      · rcases hp with hp | ⟨m, hp⟩
        · cases hp
        · cases hp; exact here _
    · rcases hp with hp | ⟨m, hp⟩ <;> cases hp

/-! ### The write queue -/

theorem RecordLaw.nil : RecordLaw [] := by constructor <;> simp [ordinaryRecords]

theorem RecordLaw.tail {e : QueueEntry} {q : List QueueEntry} (h : RecordLaw (e :: q)) : RecordLaw q where
  room := by have := h.room; simp at this; omega
  ordinary := by have := h.ordinary; simp only [ordinaryRecords, List.countP_cons] at this ⊢; omega
  ahead := ahead_tail h.ahead
  bodies := fun f hf => h.bodies f (List.mem_cons_of_mem _ hf)

theorem RecordLaw.insert {q : List QueueEntry} {e : QueueEntry} (hd : e.isDrop = true) (hb : e.body.length ≤ 26)
    (hl : q.length ≤ 7) (ho : ordinaryRecords q ≤ 6) (hq : ∀ f ∈ q, f.body.length ≤ 26) :
    RecordLaw (insertDrop q e) := by
  refine ⟨?_, ?_, ahead_insert hd, ?_⟩
  · have := length_split q QueueEntry.isDrop
    simp only [insertDrop, List.length_append, List.length_cons]
    omega
  · have := countP_split q QueueEntry.isDrop fun f => !f.isDrop
    simp only [insertDrop, ordinaryRecords, List.countP_append, List.countP_cons, hd] at ho this ⊢
    simp; omega
  · intro f hf
    simp only [insertDrop, List.mem_append, List.mem_cons, List.mem_filter] at hf
    rcases hf with hf | rfl | hf
    · exact hq f hf.1
    · exact hb
    · exact hq f hf.1

/-- What the table of R141 places keeps the law of the queue. -/
theorem placeRecord_placed {q r : List QueueEntry} {e : QueueEntry} (h : RecordLaw q) (hb : e.body.length ≤ 26)
    (hp : placeRecord q e = .placed r) : RecordLaw r := by
  unfold placeRecord at hp
  split at hp
  · rename_i hd
    split at hp
    · rename_i hr
      cases hp
      simp [Config.recordOrdinary, Config.recordEntries] at hr
      have hd' : e.isDrop = false := by simpa using hd
      refine ⟨by simp; omega, ?_, ahead_append hd' h.ahead, ?_⟩
      · simp only [ordinaryRecords, List.countP_append, List.countP_cons, List.countP_nil, hd'] at hr ⊢
        simp; omega
      · intro f hf
        rcases List.mem_append.mp hf with hf | hf
        · exact h.bodies f hf
        · rw [List.mem_singleton.mp hf]; exact hb
    · cases hp
  · rename_i hd
    split at hp
    · rename_i hl
      cases hp
      simp only [Config.recordEntries] at hl
      exact RecordLaw.insert (by simpa using hd) hb (by omega) h.ordinary h.bodies
    · split at hp
      · split at hp <;> cases hp
      · cases hp

/-- What the table of R141 leaves after a displacement keeps the law of the queue. -/
theorem placeRecord_displaced {q r : List QueueEntry} {e : QueueEntry} (h : RecordLaw q)
    (hb : e.body.length ≤ 26) (hp : placeRecord q e = .displaced r) : RecordLaw r := by
  unfold placeRecord at hp
  split at hp
  · split at hp <;> cases hp
  · rename_i hd
    split at hp
    · cases hp
    · split at hp
      · split at hp
        · cases hp
        · cases hp
          refine RecordLaw.insert (by simpa using hd) hb ?_ ?_ ?_
          · have := h.room; simp; omega
          · exact Nat.le_trans (countP_dropLast_le ..) h.ordinary
          · exact fun f hf => h.bodies f ((List.dropLast_sublist _).subset hf)
      · cases hp

end Sys2Proof.Machine
end

