-- ==== Sys2Proof/Laws/Send.lean ====
section
/-! SUPPORT. What handing a note to the Link Interface and setting a condition can do: they change the outgoing
queue and the Console Service alone. -/

namespace Sys2Proof.Machine

variable {p : Parts} {s t : State}

theorem displaced_conditions (c : Console) (n : Note) : (c.displaced n).conditions = c.conditions := by
  unfold Console.displaced
  split
  · split
    · split <;> rfl
    · rfl
  · rfl
  · split <;> rfl
  · rfl

@[simp] theorem attentionTest_effect (h : Effect p s t) (hq : p.queue = true) (hc : p.console = true) :
    Effect p s t.attentionTest := by
  unfold State.attentionTest
  split
  · split
    · rename_i q e
      exact console_effect (setQueue_effect h hq (fun k => placeNote_placed k e)
        fun _ u hn => placeNote_placed_urgent e u hn) hc rfl
    · exact joinCond_effect h hc
    · exact joinCond_effect h hc
  · exact h

@[simp] theorem setCond_effect {c : Condition} (h : Effect p s t) (hq : p.queue = true) (hc : p.console = true) :
    Effect p s (t.setCond c) := by
  unfold State.setCond
  split
  · exact h
  · exact attentionTest_effect (joinCond_effect h hc) hq hc

@[simp] theorem send_effect {n : Note} (h : Effect p s t) (hq : p.queue = true) (hc : p.console = true) :
    Effect p s (t.send n) := by
  unfold State.send
  split
  · split
    · rename_i q e
      exact setQueue_effect h hq (fun k => placeNote_placed k e) fun _ u hn => placeNote_placed_urgent e u hn
    · rename_i q m e
      exact setCond_effect (console_effect (setQueue_effect h hq (fun k => placeNote_displaced k e)
        fun _ u hn => placeNote_displaced_urgent e u hn) hc (displaced_conditions _ _)) hq hc
    · exact setCond_effect h hq hc
  · exact h

@[simp] theorem sendTo_effect {k : Station} {b : NoteBody} (h : Effect p s t) (hq : p.queue = true)
    (hc : p.console = true) : Effect p s (t.sendTo k b) := send_effect h hq hc

@[simp] theorem sendAll_effect {b : NoteBody} (h : Effect p s t) (hq : p.queue = true) (hc : p.console = true) :
    Effect p s (t.sendAll b) := send_effect h hq hc

@[simp] theorem reply_effect {k : Kind} {r : Result} {v : ReplyValues} (h : Effect p s t) (hq : p.queue = true)
    (hc : p.console = true) : Effect p s (t.reply k r v) := send_effect h hq hc

@[simp] theorem refuse_effect {k : Kind} {r : RefusalReason} {v : ReplyValues} (h : Effect p s t)
    (hq : p.queue = true) (hc : p.console = true) : Effect p s (t.refuse k r v) := send_effect h hq hc

@[simp] theorem storeDone_effect {k : Kind} {r : Result} {v : StoreValues} (h : Effect p s t)
    (hq : p.queue = true) (hc : p.console = true) : Effect p s (t.storeDone k r v) := send_effect h hq hc

@[simp] theorem cutStream_effect {o : StreamOutcome} (h : Effect p s t) (hc : p.console = true) :
    Effect p s (t.cutStream o) := by
  unfold State.cutStream
  split
  · split
    · exact console_effect h hc rfl
    · exact h
  · exact h

/-! ### What is set, and what is queued -/

/-- A condition that a rule sets is in the set. -/
@[simp] theorem setCond_self (s : State) (c : Condition) : (s.setCond c).hasCond c = true := by
  unfold State.setCond
  split
  · assumption
  · exact (attentionTest_effect (p := { queue := true, console := true }) (Effect.refl _ _) rfl rfl).conds rfl c
      (joinCond_self s c)

/-- An ordinary note of a kind that replaces none stands at the tail where there is room (R175). -/
theorem send_ordinary {s : State} {n : Note} (ht : s.takesKind n.kind = true) (hu : n.urgent = false)
    (hk : replacingKind n.kind = false) (hr : roomOrdinary s.link.queue = true) :
    s.send n = s.setQueue (s.link.queue ++ [n]) := by
  simp [State.send, placeNote, ht, hu, hk, hr]

/-- An urgent note that the phase takes is queued unless the queue is full of urgent notes (R175). -/
theorem send_urgent {s : State} {n : Note} (ht : s.takesKind n.kind = true) (hu : n.urgent = true)
    (hr : placeNote s.link.queue n ≠ .refused) : n ∈ (s.send n).link.queue := by
  unfold State.send
  rw [if_pos ht]
  split
  · rename_i q e
    exact placeNote_urgent_mem hu (.inl e)
  · rename_i q m e
    exact (setCond_effect (p := { queue := true, console := true }) (Effect.refl _ _) rfl rfl).urgent n hu
      (placeNote_urgent_mem hu (.inr ⟨m, e⟩))
  · contradiction

end Sys2Proof.Machine
end

