-- ==== Sys2Proof/Laws/Store.lean ====
section
/-! SUPPORT. What the Record Store below its commands can do: it changes the store, the outgoing queue and the
Console Service alone, and keeps the bounds of its queue, its engine and its configuration write. -/

namespace Sys2Proof.Machine

variable {p : Parts} {s t : State}

/-! ### Records and walks -/

theorem recordBytes_length (kind sequence startCount seconds : Nat) (body : List Byte) :
    (recordBytes kind sequence startCount seconds body).length = 14 + body.length := by
  simp [recordBytes, recordHeader, le32, le16, checkBytes]
  omega

theorem walkFrom_below (cells : List Host.Cell) (base n off : Nat) :
    ∀ q ∈ (walkFrom cells base n off).1, q.1 < 4096 := by
  induction n generalizing off with
  | zero => simp [walkFrom]
  | succ n ih =>
    rw [walkFrom]
    split
    · simp
    · rename_i h
      dsimp only
      split
      · simp
      · split
        · simp
        · intro q hq
          rcases List.mem_cons.mp hq with rfl | hq
          · simp [Config.regionSize] at h; exact h
          · exact ih _ q hq

theorem mem_insertBy {α : Type} {key : α → Nat × Nat} {a x : α} {l : List α} (h : a ∈ insertBy key x l) :
    a = x ∨ a ∈ l := by
  induction l with
  | nil => simpa [insertBy] using h
  | cons y rest ih =>
    rw [insertBy] at h
    split at h
    · rcases List.mem_cons.mp h with rfl | h
      · exact .inr List.mem_cons_self
      · rcases ih h with h | h
        · exact .inl h
        · exact .inr (List.mem_cons_of_mem _ h)
    · exact List.mem_cons.mp h

theorem mem_sortBy {α : Type} {key : α → Nat × Nat} {a : α} {l : List α} (h : a ∈ sortBy key l) : a ∈ l := by
  have go : ∀ (l acc : List α), a ∈ l.foldl (fun sorted x => insertBy key x sorted) acc → a ∈ acc ∨ a ∈ l := by
    intro l
    induction l with
    | nil => exact fun acc h => .inl h
    | cons x rest ih =>
      intro acc h
      rcases ih _ h with h | h
      · rcases mem_insertBy h with rfl | h
        · exact .inr List.mem_cons_self
        · exact .inl h
      · exact .inr (List.mem_cons_of_mem _ h)
  rcases go l [] h with h | h
  · cases h
  · exact h

/-- The addresses a COLLECT marks lie in the flash (R148). -/
theorem collectSet_below (s : State) (seq : Nat) : ∀ a ∈ s.collectSet seq, a < 65536 := by
  intro a ha
  simp only [State.collectSet, List.mem_map] at ha
  obtain ⟨q, hq, rfl⟩ := ha
  have hm := mem_sortBy hq
  simp only [List.mem_flatMap, List.mem_filterMap] at hm
  obtain ⟨r, -, w, hw, hq⟩ := hm
  split at hq
  · cases hq
    have := walkFrom_below _ _ _ _ w hw
    simp only [regionBase, Config.regionSize]
    omega
  · cases hq

/-! ### The store law -/

theorem StoreLaw.startProgram {st : Store} {e : QueueEntry} {rest : List QueueEntry} (h : StoreLaw st)
    (hq : st.queue = e :: rest) (hf : (st.entry st.openRegion).fill + (14 + e.body.length) ≤ 4096) :
    StoreLaw (st.startProgram e rest) where
  queue := (hq ▸ h.queue).tail
  engine := by
    simp only [Store.startProgram, EngineLaw, Store.entryBytes, recordBytes_length]
    exact hf
  write := h.write

theorem openRing_fill (st : Store) (r : Region) (e : RegionEntry) (b : Bool) :
    Store.entry { st.setEntry r { e with fill := 0 } with openRegion := r, blocked := b } r
      = { e with fill := 0 } := by
  simp [Store.entry, Store.setEntry]

/-! ### The operations -/

@[simp] theorem readBlank_effect {r : Region} (h : Effect p s t) (hs : p.store = true) :
    Effect p s (t.readBlank r) := by
  unfold State.readBlank
  split
  · exact withStore_effect h hs fun k => ⟨k.queue, k.engine, k.write⟩
  · exact h

@[simp] theorem openRing_effect {r : Region} (h : Effect p s t) (hs : p.store = true) :
    Effect p s (t.openRing r) := withStore_effect h hs fun k => ⟨k.queue, k.engine, k.write⟩

@[simp] theorem blockLog_effect (h : Effect p s t) (hs : p.store = true) (hq : p.queue = true)
    (hc : p.console = true) : Effect p s t.blockLog := by
  unfold State.blockLog
  split
  · exact withStore_effect h hs fun k => ⟨k.queue, k.engine, k.write⟩
  · exact setCond_effect (withStore_effect h hs fun k => ⟨k.queue, k.engine, k.write⟩) hq hc

@[simp] theorem ringRetry_effect (h : Effect p s t) (hs : p.store = true) : Effect p s t.ringRetry := by
  unfold State.ringRetry
  split
  · exact withStore_effect h hs fun k => ⟨k.queue, k.engine, k.write⟩
  · exact h

@[simp] theorem retryIfProtectionChanged_effect {u : State} (h : Effect p s t) (hs : p.store = true) :
    Effect p s (t.retryIfProtectionChanged u) := by
  unfold State.retryIfProtectionChanged
  split
  · exact ringRetry_effect h hs
  · exact h

@[simp] theorem overtake_effect {r : Region} (h : Effect p s t) (hc : p.console = true) :
    Effect p s (t.overtake r) := by
  unfold State.overtake
  split
  · split
    · exact cutStream_effect h hc
    · exact console_effect h hc rfl
  · exact h

@[simp] theorem startErase_effect {r : Region} {c : EraseCause} (h : Effect p s t) (hs : p.store = true)
    (hc : p.console = true) : Effect p s (t.startErase r c) := by
  refine withStore_effect (overtake_effect h hc) hs fun k => ?_
  split
  · exact ⟨k.queue, trivial, k.write⟩
  · exact ⟨k.queue, trivial, k.write⟩

@[simp] theorem finishOp_effect {op : StoreOp} {r : Result} {v : StoreValues} (h : Effect p s t)
    (hs : p.store = true) (hq : p.queue = true) (hc : p.console = true) : Effect p s (t.finishOp op r v) :=
  withStore_effect (storeDone_effect h hq hc) hs fun k => ⟨k.queue, k.engine, k.write⟩

theorem readBlank_store_queue (s : State) (r : Region) : (s.readBlank r).store.queue = s.store.queue := by
  unfold State.readBlank
  split <;> rfl

theorem startProgram_effect {e : QueueEntry} {rest : List QueueEntry} (h : Effect p s t) (hs : p.store = true)
    (hq : t.store.queue = e :: rest)
    (hf : RecordLaw t.store.queue → (t.store.entry t.store.openRegion).fill + (14 + e.body.length) ≤ 4096) :
    Effect p s (t.withStore fun st => st.startProgram e rest) :=
  withStore_effect h hs fun k => k.startProgram hq (hf k.queue)

theorem openRing_fits {e : QueueEntry} {rest : List QueueEntry} {r : Region}
    (hq : t.store.queue = e :: rest) (hl : RecordLaw (t.openRing r).store.queue) :
    ((t.openRing r).store.entry (t.openRing r).store.openRegion).fill + (14 + e.body.length) ≤ 4096 := by
  have hl' : RecordLaw t.store.queue := hl
  have := hl'.bodies e (by rw [hq]; exact List.mem_cons_self)
  simp only [State.openRing, withStore_store, openRing_fill]
  omega

theorem place_effect {e : QueueEntry} {rest : List QueueEntry} (h : Effect p s t) (hs : p.store = true)
    (hq : p.queue = true) (hc : p.console = true) (hh : t.store.queue = e :: rest) :
    Effect p s (t.place e rest) := by
  unfold State.place
  split
  · exact h
  · split
    · rename_i hf
      exact startProgram_effect h hs hh fun _ => by simpa [Store.fitsOpen] using hf
    · split
      · exact h
      · split
        · exact blockLog_effect h hs hq hc
        · rename_i r _
          dsimp only
          split
          · exact startProgram_effect (openRing_effect (readBlank_effect h hs) hs) hs
              ((readBlank_store_queue t r).trans hh)
              (openRing_fits ((readBlank_store_queue t r).trans hh))
          · exact startErase_effect (readBlank_effect h hs) hs hc

/-- What `placeDuringErase` answers: a state in which the program of the head may start, or not. -/
theorem placeDuringErase_effect {c : EraseCause} {e : QueueEntry} {rest : List QueueEntry} (h : Effect p s t)
    (hs : p.store = true) (hh : t.store.queue = e :: rest) :
    Effect p s (t.placeDuringErase c e).1 ∧ (t.placeDuringErase c e).1.store.queue = e :: rest
      ∧ ((t.placeDuringErase c e).2 = true → RecordLaw (t.placeDuringErase c e).1.store.queue →
          ((t.placeDuringErase c e).1.store.entry (t.placeDuringErase c e).1.store.openRegion).fill
            + (14 + e.body.length) ≤ 4096) := by
  unfold State.placeDuringErase
  split
  · exact ⟨h, hh, by simp⟩
  · split
    · rename_i hf
      exact ⟨h, hh, fun _ _ => by simpa [Store.fitsOpen] using hf⟩
    · split
      · split
        · exact ⟨h, hh, by simp⟩
        · rename_i r _
          dsimp only
          have hq := (readBlank_store_queue t r).trans hh
          split
          · exact ⟨openRing_effect (readBlank_effect h hs) hs, hq, fun _ => openRing_fits hq⟩
          · exact ⟨readBlank_effect h hs, hq, by simp⟩
      · exact ⟨h, hh, by simp⟩

@[simp] theorem trySuspend_effect (h : Effect p s t) (hs : p.store = true) : Effect p s t.trySuspend := by
  unfold State.trySuspend
  split
  · rename_i r c e rest he hh
    split
    · obtain ⟨h1, h2, h3⟩ := placeDuringErase_effect (c := c) h hs hh
      dsimp only
      split
      · rename_i ok
        refine withStore_effect h1 hs fun k => ?_
        have := k.startProgram h2 (h3 ok k.queue)
        exact ⟨this.queue, this.engine, this.write⟩
      · exact h1
    · exact h
  · exact h

theorem resumeErase_effect {sus : SuspendedErase} (h : Effect p s t) (hs : p.store = true) :
    Effect p s (t.resumeErase sus) := by
  have back : ∀ u : State, Effect p s u → Effect p s (u.withStore fun st =>
      { st with engine := .erase sus.region sus.cause, remaining := sus.remaining, suspended := none }) :=
    fun u hu => withStore_effect hu hs fun k => ⟨k.queue, trivial, k.write⟩
  unfold State.resumeErase
  dsimp only
  split
  · rename_i e rest hh
    split
    · obtain ⟨h1, h2, h3⟩ := placeDuringErase_effect (c := sus.cause) h hs hh
      split
      · rename_i ok
        exact startProgram_effect h1 hs h2 (h3 ok)
      · exact back _ h1
    · exact back _ h
  · exact back _ h

theorem startOp_effect {op : StoreOp} (h : Effect p s t) (hs : p.store = true) (hq : p.queue = true)
    (hc : p.console = true) : Effect p s (t.startOp op) := by
  unfold State.startOp
  split
  · refine withStore_effect (finishOp_effect h hs hq hc) hs fun k => ?_
    split
    · exact ⟨k.queue, k.engine, trivial⟩
    · exact k
  · dsimp only
    split
    · split
      · exact finishOp_effect h hs hq hc
      · refine withStore_effect h hs fun k => ⟨k.queue, ?_, k.write⟩
        exact collectSet_below t _
    · split
      · exact startErase_effect (withStore_effect h hs fun k => ⟨k.queue, k.engine, k.write⟩) hs hc
      · exact h
    · exact retryIfProtectionChanged_effect
        (finishOp_effect (withStore_effect h hs fun k => ⟨k.queue, k.engine, k.write⟩) hs hq hc) hs
    · split
      · split
        · exact finishOp_effect h hs hq hc
        · exact withStore_effect h hs fun k => ⟨k.queue, trivial, k.write⟩
      · exact h
    · exact withStore_effect h hs fun k => ⟨k.queue, trivial, k.write⟩
    · exact finishOp_effect (withStore_effect h hs fun k => ⟨k.queue, k.engine, k.write⟩) hs hq hc
    · split
      · rename_i w hw
        refine withStore_effect h hs fun k => ?_
        have hl := k.write
        rw [hw] at hl
        exact ⟨k.queue, by simp only [EngineLaw]; have := hl.1; have := hl.2; omega, hl⟩
      · exact finishOp_effect h hs hq hc
    · exact withStore_effect h hs fun k => ⟨k.queue, trivial, k.write⟩

/-! ### The engine's choice of work -/

theorem dropTest_effect (h : Effect p s t) (hs : p.store = true) (hq : p.queue = true) (hc : p.console = true) :
    Effect p s t.dropTest := by
  unfold State.dropTest
  split
  · rename_i hh
    split
    · exact place_effect h hs hq hc hh
    · exact h
  · exact h

theorem opTest_effect (h : Effect p s t) (hs : p.store = true) (hq : p.queue = true) (hc : p.console = true) :
    Effect p s t.opTest := by
  unfold State.opTest
  split
  · exact startOp_effect h hs hq hc
  · exact h

theorem ordinaryTest_effect (h : Effect p s t) (hs : p.store = true) (hq : p.queue = true)
    (hc : p.console = true) : Effect p s t.ordinaryTest := by
  unfold State.ordinaryTest
  split
  · rename_i hh
    split
    · exact h
    · exact place_effect h hs hq hc hh
  · exact h

theorem engineTests_effect (h : Effect p s t) (hs : p.store = true) (hq : p.queue = true) (hc : p.console = true) :
    Effect p s t.engineTests := by
  have hd := dropTest_effect h hs hq hc
  have ho := opTest_effect hd hs hq hc
  unfold State.engineTests
  split
  · exact resumeErase_effect h hs
  · dsimp only
    split
    · exact hd
    · split
      · exact ho
      · exact ordinaryTest_effect ho hs hq hc

@[simp] theorem engineNext_effect (h : Effect p s t) (hs : p.store = true) (hq : p.queue = true)
    (hc : p.console = true) : Effect p s t.engineNext := by
  unfold State.engineNext
  split
  · dsimp only
    split
    · exact engineTests_effect (engineTests_effect h hs hq hc) hs hq hc
    · exact engineTests_effect h hs hq hc
  · exact h

@[simp] theorem engineFree_effect (h : Effect p s t) (hs : p.store = true) (hq : p.queue = true)
    (hc : p.console = true) : Effect p s t.engineFree :=
  engineNext_effect (withStore_effect h hs fun k => ⟨k.queue, trivial, k.write⟩) hs hq hc

@[simp] theorem workArrived_effect (h : Effect p s t) (hs : p.store = true) (hq : p.queue = true)
    (hc : p.console = true) : Effect p s t.workArrived := by
  unfold State.workArrived
  split
  · exact engineNext_effect h hs hq hc
  · exact trySuspend_effect h hs

@[simp] theorem opArrived_effect (h : Effect p s t) (hs : p.store = true) (hq : p.queue = true)
    (hc : p.console = true) : Effect p s t.opArrived := by
  unfold State.opArrived
  split
  · exact engineNext_effect h hs hq hc
  · exact h

/-- A record handed over changes the store, the outgoing queue and the Console Service alone. -/
@[simp] theorem hand_effect {c : RecordContent} (h : Effect p s t) (hs : p.store = true) (hq : p.queue = true)
    (hc : p.console = true) : Effect p s (t.hand c) := by
  have hb : (t.queueEntry c).body.length ≤ 26 := List.length_take_le _ _
  unfold State.hand
  split
  · split
    · rename_i q e
      exact workArrived_effect
        (withStore_effect h hs fun k => ⟨placeRecord_placed k.queue hb e, k.engine, k.write⟩) hs hq hc
    · rename_i q e
      exact workArrived_effect (setCond_effect
        (withStore_effect h hs fun k => ⟨placeRecord_displaced k.queue hb e, k.engine, k.write⟩) hq hc) hs hq hc
    · exact setCond_effect h hq hc
  · exact h

@[simp] theorem replyIdentity_effect {i k : Nat} (h : Effect p s t) (hq : p.queue = true) (hc : p.console = true) :
    Effect p s (t.replyIdentity i k) := sendTo_effect h hq hc

@[simp] theorem serveAsks_effect (h : Effect p s t) (hq : p.queue = true) (hc : p.console = true) :
    Effect p s t.serveAsks := by
  have go : ∀ (l : List (Nat × Nat)) (u : State), Effect p s u →
      Effect p s (l.foldl (fun t a => t.replyIdentity a.1 a.2) u) := by
    intro l
    induction l with
    | nil => exact fun _ h => h
    | cons a l ih => exact fun u h => ih _ (replyIdentity_effect h hq hc)
  unfold State.serveAsks
  split
  · exact h
  · exact go _ _ (console_effect h hc rfl)

end Sys2Proof.Machine
end

