-- ==== Sys2Proof/Laws/Attention.lean ====
section
/-! SUPPORT. What becomes of the notes that stand in the outgoing queue, and of attention-inhibited, when conditions are
set, the Record Store answers and records are handed over: nothing of the queue leaves it, since no urgent note is sent,
and the inhibition stays (R175, R190). -/

namespace Sys2Proof.Machine

variable {s t u : State}

/-- The notes of a queue stay in it, and an inhibited station stays inhibited. A BEACON or a ROSTER may be replaced, by
another operation than those below. -/
structure NotesStay (s t : State) : Prop where
  queue : ∀ n ∈ s.link.queue, n ∈ t.link.queue
  inhibited : s.console.inhibited = true → t.console.inhibited = true

@[simp] theorem NotesStay.refl (s : State) : NotesStay s s := ⟨fun _ h => h, id⟩

theorem NotesStay.trans (h : NotesStay s t) (k : NotesStay t u) : NotesStay s u :=
  ⟨fun n m => k.queue n (h.queue n m), fun i => k.inhibited (h.inhibited i)⟩

/-- An operation that leaves the queue and the inhibition. -/
theorem notesStay_of (hq : t.link.queue = s.link.queue) (hi : t.console.inhibited = s.console.inhibited) :
    NotesStay s t := ⟨fun _ h => hq ▸ h, fun h => hi.trans h⟩

theorem withStore_notesStay {f : Store → Store} (h : NotesStay s t) : NotesStay s (t.withStore f) :=
  h.trans (notesStay_of rfl rfl)

/-- An ATTENTION that the queue takes stands at its tail. -/
theorem placeNote_attention {q : List Note} (h : placeNote s.link.queue s.attentionNote = .placed q) :
    q = s.link.queue ++ [s.attentionNote] := by
  simp only [placeNote, State.attentionNote, Note.kind, Note.urgent, NoteBody.kind, urgentKind, replacingKind] at h
  simp at h
  split at h <;> cases h
  rfl

theorem attentionTest_notesStay (s : State) : NotesStay s s.attentionTest := by
  unfold State.attentionTest
  split
  · split
    · rename_i q e
      exact ⟨fun n h => placeNote_attention e ▸ List.mem_append_left _ h, fun _ => rfl⟩
    · exact notesStay_of rfl rfl
    · exact notesStay_of rfl rfl
  · exact .refl s

theorem setCond_notesStay (s : State) (c : Condition) : NotesStay s (s.setCond c) := by
  unfold State.setCond
  split
  · exact .refl s
  · exact (notesStay_of (s := s) (t := s.joinCond c) rfl rfl).trans (attentionTest_notesStay _)

theorem storeDone_notesStay (s : State) (op : Kind) (r : Result) (v : StoreValues) :
    NotesStay s (s.storeDone op r v) := by
  unfold State.storeDone State.sendTo State.send
  split
  · unfold placeNote
    simp only [Note.kind, Note.urgent, NoteBody.kind, urgentKind, replacingKind]
    simp
    split
    · rename_i q e
      split at e
      · cases e
        exact ⟨fun n h => List.mem_append_left _ h, id⟩
      · cases e
    · rename_i e
      split at e <;> cases e
    · exact setCond_notesStay s _
  · exact .refl s

theorem blockLog_notesStay (s : State) : NotesStay s s.blockLog := by
  unfold State.blockLog
  split
  · exact notesStay_of rfl rfl
  · exact (withStore_notesStay (.refl s)).trans (setCond_notesStay _ _)

theorem overtake_notesStay (s : State) (r : Region) : NotesStay s (s.overtake r) := by
  unfold State.overtake State.cutStream
  repeat' split
  all_goals exact notesStay_of rfl rfl

theorem startErase_notesStay (s : State) (r : Region) (c : EraseCause) : NotesStay s (s.startErase r c) :=
  withStore_notesStay (overtake_notesStay s r)

theorem readBlank_notesStay (s : State) (r : Region) : NotesStay s (s.readBlank r) := by
  unfold State.readBlank; split
  · exact notesStay_of rfl rfl
  · exact .refl s

theorem openRing_notesStay (s : State) (r : Region) : NotesStay s (s.openRing r) := withStore_notesStay (.refl s)

theorem place_notesStay (s : State) (e : QueueEntry) (r : List QueueEntry) : NotesStay s (s.place e r) := by
  unfold State.place
  split
  · exact .refl s
  · split
    · exact notesStay_of rfl rfl
    · split
      · exact .refl s
      · split
        · exact blockLog_notesStay s
        · dsimp only
          split
          · exact withStore_notesStay (withStore_notesStay (readBlank_notesStay s _))
          · exact (readBlank_notesStay s _).trans (startErase_notesStay _ _ _)

theorem finishOp_notesStay (s : State) (op : StoreOp) (r : Result) (v : StoreValues) :
    NotesStay s (s.finishOp op r v) :=
  withStore_notesStay (storeDone_notesStay s _ _ _)

theorem retryIfProtectionChanged_notesStay (s b : State) : NotesStay s (s.retryIfProtectionChanged b) := by
  unfold State.retryIfProtectionChanged State.ringRetry
  repeat' split
  all_goals exact notesStay_of rfl rfl

theorem startOp_notesStay (s : State) (op : StoreOp) : NotesStay s (s.startOp op) := by
  unfold State.startOp
  split
  · exact withStore_notesStay (finishOp_notesStay _ _ _ _)
  · dsimp only
    have b : ∀ f, NotesStay s (s.withStore f) := fun f => notesStay_of rfl rfl
    have fin : ∀ {t : State} (op r v), NotesStay s t → NotesStay s (t.finishOp op r v) :=
      fun _ _ _ h => h.trans (finishOp_notesStay _ _ _ _)
    split
    · split
      · exact finishOp_notesStay _ _ _ _
      · exact b _
    · split
      · exact (b _).trans (startErase_notesStay _ _ _)
      · exact .refl s
    · exact (fin _ _ _ (b _)).trans (retryIfProtectionChanged_notesStay _ _)
    · split
      · split
        · exact finishOp_notesStay _ _ _ _
        · exact b _
      · exact .refl s
    · exact b _
    · exact fin _ _ _ (b _)
    · split
      · exact b _
      · exact finishOp_notesStay _ _ _ _
    · exact b _

theorem placeDuringErase_notesStay (s : State) (c : EraseCause) (e : QueueEntry) :
    NotesStay s (s.placeDuringErase c e).1 := by
  unfold State.placeDuringErase
  dsimp only
  repeat' split
  all_goals first
    | exact .refl s
    | exact (readBlank_notesStay s _).trans (openRing_notesStay _ _)
    | exact readBlank_notesStay s _

theorem resumeErase_notesStay (s : State) (x : SuspendedErase) : NotesStay s (s.resumeErase x) := by
  unfold State.resumeErase
  dsimp only
  split
  · split
    · split
      · exact withStore_notesStay (placeDuringErase_notesStay _ _ _)
      · exact withStore_notesStay (placeDuringErase_notesStay _ _ _)
    · exact notesStay_of rfl rfl
  · exact notesStay_of rfl rfl

theorem engineTests_notesStay (s : State) : NotesStay s s.engineTests := by
  have d : ∀ s : State, NotesStay s s.dropTest := by
    intro s; unfold State.dropTest; repeat' split
    all_goals first | exact .refl s | exact place_notesStay _ _ _
  have o : ∀ s : State, NotesStay s s.opTest := by
    intro s; unfold State.opTest; split
    · exact startOp_notesStay _ _
    · exact .refl s
  have r : ∀ s : State, NotesStay s s.ordinaryTest := by
    intro s; unfold State.ordinaryTest; repeat' split
    all_goals first | exact .refl s | exact place_notesStay _ _ _
  unfold State.engineTests
  split
  · exact resumeErase_notesStay _ _
  · dsimp only
    split
    · exact d s
    · split
      · exact (d s).trans (o _)
      · exact ((d s).trans (o _)).trans (r _)

theorem engineNext_notesStay (s : State) : NotesStay s s.engineNext := by
  unfold State.engineNext
  dsimp only
  split
  · split
    · exact (engineTests_notesStay s).trans (engineTests_notesStay _)
    · exact engineTests_notesStay s
  · exact .refl s

theorem trySuspend_notesStay (s : State) : NotesStay s s.trySuspend := by
  unfold State.trySuspend
  split
  · split
    · dsimp only
      split
      · exact withStore_notesStay (placeDuringErase_notesStay _ _ _)
      · exact placeDuringErase_notesStay _ _ _
    · exact .refl s
  · exact .refl s

theorem workArrived_notesStay (s : State) : NotesStay s s.workArrived := by
  unfold State.workArrived
  split
  · exact engineNext_notesStay s
  · exact trySuspend_notesStay s

/-- A record handed over leaves the notes that stand, and the inhibition. -/
theorem hand_notesStay (s : State) (c : RecordContent) : NotesStay s (s.hand c) := by
  unfold State.hand
  split
  · split
    · exact (withStore_notesStay (.refl s)).trans (workArrived_notesStay _)
    · exact ((withStore_notesStay (.refl s)).trans (setCond_notesStay _ _)).trans (workArrived_notesStay _)
    · exact setCond_notesStay s _
  · exact .refl s

end Sys2Proof.Machine
end

