-- ==== Sys2Proof/Laws/Roster.lean ====
section
/-! SUPPORT. What the Roster Unit's operations can do, and what the Shock Monitor is told: they keep the law of the
roster (R1, R21 to R23), and change the Roster Unit, the record in progress, and what sending a note and writing a
record change. -/

namespace Sys2Proof.Machine

variable {p : Parts} {s t : State}

/-! ### The Shock Monitor is told -/

@[simp] theorem queueSettled_effect {n : SettledNote} (h : Effect p s t) (hq : p.queue = true)
    (hc : p.console = true) : Effect p s (t.queueSettled n) := by
  unfold State.queueSettled
  split
  · exact sendTo_effect h hq hc
  · exact h

@[simp] theorem oweSettled_effect {n : SettledNote} (h : Effect p s t) (hq : p.queue = true)
    (hc : p.console = true) (hk : p.shock = true) : Effect p s (t.oweSettled n) := by
  unfold State.oweSettled
  split
  · exact withShock_effect h hk id
  · exact queueSettled_effect h hq hc

@[simp] theorem roleResult_effect {r : CheckResult} (h : Effect p s t) (hs : p.store = true) (hq : p.queue = true)
    (hc : p.console = true) (hk : p.shock = true) : Effect p s (t.roleResult r) := by
  unfold State.roleResult
  split
  · split
    · exact hand_effect (oweSettled_effect (withShock_effect h hk id) hq hc hk) hs hq hc
    · exact h
  · split
    · rename_i e he
      split
      · refine oweSettled_effect (withShock_effect h hk fun l => ?_) hq hc hk
        simp only [ShockLaw] at l ⊢
        rw [he] at l
        simpa using l
      · exact h
    · exact h

@[simp] theorem markHandover_effect (h : Effect p s t) (hk : p.shock = true) : Effect p s t.markHandover := by
  refine withShock_effect h hk fun l => ?_
  simpa only [ShockLaw, Option.map_eq_none_iff] using l

/-! ### The roster record -/

theorem ascending_iff {l : List Entry} :
    (l.Pairwise fun a b => a.station < b.station) ↔ (l.map Entry.station).Pairwise (· < ·) :=
  List.pairwise_map.symm

/-- A record whose stations are among the old ones in their order, under the same leaving station, keeps the law. -/
theorem RosterLaw.record {u : RosterUnit} {r : Roster} (h : RosterLaw u) (hl : r.leaving = u.record.leaving)
    (he : (r.entries.map Entry.station).Sublist (u.record.entries.map Entry.station)) :
    RosterLaw { u with record := r } where
  entries := by
    have := he.length_le
    simp only [List.length_map] at this
    exact Nat.le_trans this h.entries
  ascending := ascending_iff.mpr ((ascending_iff.mp h.ascending).sublist he)
  waiting := h.waiting
  leaving := hl.trans h.leaving
  timer := h.timer

/-- A slot that keeps its leaving station and its phase keeps the law. -/
theorem RosterLaw.slot {u : RosterUnit} {sl sl' : Slot} (h : RosterLaw u) (hs : u.slot = some sl)
    (hl : sl'.leaving = sl.leaving) (hp : sl'.phase = sl.phase) : RosterLaw { u with slot := some sl' } where
  entries := h.entries
  ascending := h.ascending
  waiting := h.waiting
  leaving := by have := h.leaving; rw [hs] at this; simp [this, hl]
  timer := by have := h.timer; simp only [RosterUnit.timed, hs] at this ⊢; rw [hp]; exact this

theorem withRecord_effect {f : Roster → Roster} (h : Effect p s t) (hr : p.roster = true)
    (hl : (f t.roster.record).leaving = t.roster.record.leaving)
    (he : ((f t.roster.record).entries.map Entry.station).Sublist (t.roster.record.entries.map Entry.station)) :
    Effect p s (t.withRecord f) := withUnit_effect h hr fun k => k.record hl he

theorem mapEntry_stations (r : Roster) (k : Station) (f : Entry → Entry) (hf : ∀ e, (f e).station = e.station) :
    (mapEntry r k f).entries.map Entry.station = r.entries.map Entry.station := by
  simp only [mapEntry, List.map_map]
  apply List.map_congr_left
  intro e _
  simp only [Function.comp]
  split
  · exact hf e
  · rfl

theorem mapEntry_effect {k : Station} {f : Entry → Entry} (h : Effect p s t) (hr : p.roster = true)
    (hf : ∀ e, (f e).station = e.station) : Effect p s (t.withRecord fun r => mapEntry r k f) :=
  withRecord_effect h hr rfl (by simp only [mapEntry_stations _ _ _ hf]; exact .refl _)

@[simp] theorem noteState_effect {k : Station} {st : EntryState} (h : Effect p s t) (hr : p.roster = true) :
    Effect p s (t.withRecord fun r => noteState r k st) := mapEntry_effect h hr fun _ => rfl

theorem rosterEntry_station {r : Roster} {k : Station} {e : Entry} (h : rosterEntry r k = some e) :
    e.station = k := by
  have := List.find?_some h
  simpa using this

theorem settleEntry_station {e e' : Entry} {b : BaySummary} {k : ShockState} (h : settleEntry e b k = some e') :
    e'.station = e.station := by
  simp only [settleEntry, Option.map_eq_some_iff] at h
  obtain ⟨st, -, rfl⟩ := h
  rfl

theorem settleRoster_keeps (r : Roster) (k : Station) (b : BaySummary) (shock : ShockState) :
    (settleRoster r k b shock).leaving = r.leaving
      ∧ ((settleRoster r k b shock).entries.map Entry.station).Sublist (r.entries.map Entry.station) := by
  unfold settleRoster
  split
  · exact ⟨rfl, .refl _⟩
  · rename_i e he
    split
    · rename_i e' he'
      refine ⟨rfl, ?_⟩
      have hk : e'.station = k := (settleEntry_station he').trans (rosterEntry_station he)
      have : ((mapEntry r k fun _ => e').entries.map Entry.station) = r.entries.map Entry.station := by
        simp only [mapEntry, List.map_map]
        apply List.map_congr_left
        intro d _
        simp only [Function.comp]
        split
        · rename_i hd; rw [hk, hd]
        · rfl
      simp only [this]; exact .refl _
    · exact ⟨rfl, List.filter_sublist.map _⟩

@[simp] theorem settleRoster_effect {k : Station} {b : BaySummary} {shock : ShockState} (h : Effect p s t)
    (hr : p.roster = true) : Effect p s (t.withRecord fun r => settleRoster r k b shock) :=
  withRecord_effect h hr (settleRoster_keeps ..).1 (settleRoster_keeps ..).2

/-! ### The recomputation -/

theorem giveShares_stations (member : Entry → Bool) (n i : Nat) (l : List Entry) :
    (giveShares member n i l).map Entry.station = l.map Entry.station := by
  induction l generalizing i with
  | nil => rfl
  | cons e rest ih =>
    rw [giveShares]
    split
    · simp [ih]
    · simp [ih]

theorem consequence_station (e : Entry) : (consequence e).station = e.station := by
  unfold consequence
  split
  · rfl
  · split <;> rfl

theorem recomputed_stations (reserve : Nat) (r : Roster) :
    (recomputed reserve r).entries.map Entry.station = r.entries.map Entry.station := by
  have hc : ∀ l : List Entry, (l.map consequence).map Entry.station = l.map Entry.station := by
    intro l
    rw [List.map_map]
    exact List.map_congr_left fun e _ => consequence_station e
  simp only [recomputed, hc, allocate]
  split
  · rw [List.map_map]; rfl
  · exact giveShares_stations ..

theorem heldLeaving_station (e : Entry) : (heldLeaving e).station = e.station := by
  unfold heldLeaving
  split <;> rfl

/-- What a recomputation holds of the leaving entry keeps the stations and the other fields of the record. -/
theorem held_keeps (u : RosterUnit) :
    u.held.leaving = u.record.leaving ∧ u.held.entries.map Entry.station = u.record.entries.map Entry.station := by
  unfold RosterUnit.held
  split
  · exact ⟨rfl, mapEntry_stations _ _ _ heldLeaving_station⟩
  · exact ⟨rfl, rfl⟩

@[simp] theorem recompute_effect (h : Effect p s t) (hr : p.roster = true) (hq : p.queue = true)
    (hc : p.console = true) : Effect p s t.recompute := by
  have k : Effect p s (t.withUnit fun u =>
      { u with
        record := recomputed t.config.reserve t.roster.held
        slot := u.slot.map fun sl => sl.follow t.roster.held (recomputed t.config.reserve t.roster.held) }) := by
    refine withUnit_effect h hr fun l => ?_
    have l' := l.record (r := recomputed t.config.reserve t.roster.held) (held_keeps t.roster).1
      (by simp only [recomputed_stations, (held_keeps t.roster).2]; exact .refl _)
    cases hs : t.roster.slot with
    | none => simpa [hs] using l'
    | some sl => exact l'.slot (sl := sl) hs rfl rfl
  unfold State.recompute
  dsimp only
  split
  · exact setCond_effect k hq hc
  · exact k

/-! ### The handover slot -/

@[simp] theorem endSlot_effect (h : Effect p s t) (hr : p.roster = true) : Effect p s t.endSlot :=
  withUnit_effect h hr fun l => ⟨l.entries, l.ascending, l.waiting, rfl, rfl⟩

@[simp] theorem releaseWithout_effect {b : Roster} {k : Station} {o : Origin} (h : Effect p s t)
    (hs : p.store = true) (hq : p.queue = true) (hc : p.console = true) : Effect p s (t.releaseWithout b k o) :=
  hand_effect (sendTo_effect h hq hc) hs hq hc

@[simp] theorem startHandover_effect {k : Station} {o : Origin} (h : Effect p s t) (hr : p.roster = true)
    (hq : p.queue = true) (hc : p.console = true) (hk : p.shock = true) : Effect p s (t.startHandover k o) := by
  refine markHandover_effect (recompute_effect (withUnit_effect h hr fun l => ?_) hr hq hc) hk
  have he : ((mapEntry t.roster.record k fun e => { e with state := .releasing, weight := 0 }).entries.map
      Entry.station) = t.roster.record.entries.map Entry.station := mapEntry_stations _ _ _ fun _ => rfl
  refine ⟨?_, ascending_iff.mpr (he ▸ ascending_iff.mp l.ascending), l.waiting, rfl, rfl⟩
  have := congrArg List.length he
  simp only [List.length_map] at this
  exact Nat.le_trans (Nat.le_of_eq this) l.entries

@[simp] theorem tryStart_effect {k : Station} {o : Origin} (h : Effect p s t) (hr : p.roster = true)
    (hq : p.queue = true) (hc : p.console = true) (hk : p.shock = true) : Effect p s (t.tryStart k o) := by
  unfold State.tryStart
  split
  · exact startHandover_effect h hr hq hc hk
  · exact sendTo_effect h hq hc

theorem serveOne_effect {b : Roster} {w : Waiter} (h : Effect p s t) (hr : p.roster = true) (hs : p.store = true)
    (hq : p.queue = true) (hc : p.console = true) (hk : p.shock = true) : Effect p s (t.serveOne b w) := by
  unfold State.serveOne
  split
  · exact sendTo_effect h hq hc
  · split <;> first
      | exact sendTo_effect h hq hc
      | exact releaseWithout_effect h hs hq hc
      | exact tryStart_effect h hr hq hc hk
      | exact h

@[simp] theorem serveList_effect {b : Roster} (h : Effect p s t) (hr : p.roster = true) (hs : p.store = true)
    (hq : p.queue = true) (hc : p.console = true) (hk : p.shock = true) : Effect p s (t.serveList b) := by
  have go : ∀ n u, Effect p s u → Effect p s (State.serveFrom b n u) := by
    intro n
    induction n with
    | zero => exact fun _ h => h
    | succ n ih =>
      intro u h
      rw [State.serveFrom]
      split
      · exact h
      · split
        · exact h
        · rename_i w rest hw
          refine ih _ (serveOne_effect (withUnit_effect h hr fun l => ⟨l.entries, l.ascending, ?_, l.leaving,
            l.timer⟩) hr hs hq hc hk)
          have := l.waiting
          rw [hw] at this
          simp only [List.length_cons] at this
          exact Nat.le_of_succ_le this
  exact go _ _ h

@[simp] theorem completeHandover_effect {b : Roster} {sl : Slot} {e : EndEvidence} (h : Effect p s t)
    (hr : p.roster = true) (hs : p.store = true) (hq : p.queue = true) (hc : p.console = true)
    (hk : p.shock = true) : Effect p s (t.completeHandover b sl e) :=
  serveList_effect (recompute_effect (hand_effect (endSlot_effect h hr) hs hq hc) hr hq hc) hr hs hq hc hk

@[simp] theorem restoreLeaving_effect {k : Station} (h : Effect p s t) (hr : p.roster = true) :
    Effect p s (t.restoreLeaving k) := by
  unfold State.restoreLeaving
  split
  · dsimp only
    have := mapEntry_effect (k := k) (f := fun e => { e with state := .carrying }) h hr fun _ => rfl
    split
    · exact settleRoster_effect this hr
    · exact this
  · exact h

@[simp] theorem abortHandover_effect {b : Roster} {sl : Slot} {o : SwapOutcome} (h : Effect p s t)
    (hr : p.roster = true) (hs : p.store = true) (hq : p.queue = true) (hc : p.console = true)
    (hk : p.shock = true) : Effect p s (t.abortHandover b sl o) :=
  serveList_effect (setCond_effect (hand_effect (sendTo_effect
    (recompute_effect (endSlot_effect (restoreLeaving_effect h hr) hr) hr hq hc) hq hc) hs hq hc) hq hc)
    hr hs hq hc hk

@[simp] theorem loseLeaving_effect {b : Roster} {sl : Slot} (h : Effect p s t) (hr : p.roster = true)
    (hs : p.store = true) (hq : p.queue = true) (hc : p.console = true) (hk : p.shock = true) :
    Effect p s (t.loseLeaving b sl) := by
  unfold State.loseLeaving
  split
  · exact completeHandover_effect h hr hs hq hc hk
  · exact serveList_effect (hand_effect (recompute_effect (endSlot_effect h hr) hr hq hc) hs hq hc) hr hs hq hc hk

/-- Takers leave a slot that stays BUSY in its phase. -/
theorem dropTakers_effect {sl : Slot} {g : List Station} {l : Bool} (h : Effect p s t) (hr : p.roster = true)
    (hsl : t.roster.slot = some sl) : Effect p s (t.withUnit fun u => { u with slot := some (sl.dropTakers g l) }) :=
  withUnit_effect h hr fun l => l.slot (sl := sl) hsl rfl rfl

theorem loseTakers_effect {b : Roster} {sl : Slot} {g : List Station} {c : Bool} (h : Effect p s t)
    (hr : p.roster = true) (hs : p.store = true) (hq : p.queue = true) (hc : p.console = true) (hk : p.shock = true)
    (hsl : t.roster.slot = some sl) : Effect p s (t.loseTakers b sl g c) := by
  have k := dropTakers_effect (g := g) (l := true) h hr hsl
  unfold State.loseTakers
  dsimp only
  split
  · exact abortHandover_effect k hr hs hq hc hk
  · exact ite_effect (recompute_effect k hr hq hc) k

@[simp] theorem trigger_effect {b : Roster} {d : List Station} (h : Effect p s t) (hr : p.roster = true)
    (hs : p.store = true) (hq : p.queue = true) (hc : p.console = true) (hk : p.shock = true) :
    Effect p s (t.trigger b d) := by
  unfold State.trigger
  split
  · exact recompute_effect h hr hq hc
  · exact loseTakers_effect h hr hs hq hc hk ‹_›

@[simp] theorem publish_effect (h : Effect p s t) (hr : p.roster = true) (hq : p.queue = true)
    (hc : p.console = true) : Effect p s t.publish :=
  sendAll_effect (withUnit_effect h hr fun l => ⟨l.entries, l.ascending, l.waiting, l.leaving, l.timer⟩) hq hc

theorem endsMet_phase {sl : Slot} (h : sl.endsMet = true) : sl.phase = .shifting := by
  simp only [Slot.endsMet, Bool.and_eq_true, beq_iff_eq] at h
  exact h.1.1

@[simp] theorem letGoTest_effect (h : Effect p s t) (hr : p.roster = true) (hq : p.queue = true)
    (hc : p.console = true) : Effect p s t.letGoTest := by
  unfold State.letGoTest
  split
  · rename_i sl hsl
    split
    · have k := sendTo_effect (k := sl.leaving) (b := .letGo .handover) h hq hc
      refine withUnit_effect k hr fun l => ?_
      have e : (t.sendTo sl.leaving (.letGo .handover)).roster = t.roster :=
        (sendTo_effect (p := { queue := true, console := true }) (Effect.refl _ t) rfl rfl).roster rfl
      refine ⟨l.entries, l.ascending, l.waiting, ?_, rfl⟩
      have := l.leaving
      rw [e, hsl] at this
      rw [e]
      exact this
    · exact h
  · exact h

/-- An event of the Roster Unit does what its work does, and may publish and send LET-GO. -/
@[simp] theorem rosterEvent_effect {w : Roster → State → State} (h : Effect p s (w t.roster.record t))
    (hr : p.roster = true) (hq : p.queue = true) (hc : p.console = true) : Effect p s (t.rosterEvent w) := by
  unfold State.rosterEvent
  dsimp only
  split
  · exact letGoTest_effect (publish_effect h hr hq hc) hr hq hc
  · exact letGoTest_effect h hr hq hc

/-! ### What the Roster Unit takes -/

theorem confirm_keeps (sl : Slot) (k : Station) :
    (sl.confirm k).leaving = sl.leaving ∧ (sl.confirm k).phase = sl.phase := by
  unfold Slot.confirm
  split <;> exact ⟨rfl, rfl⟩

@[simp] theorem confirmTaker_effect {k : Station} (h : Effect p s t) (hr : p.roster = true) :
    Effect p s (t.confirmTaker k) := by
  refine withUnit_effect h hr fun l => ?_
  cases hs : t.roster.slot with
  | none =>
    have : ({ t.roster with slot := none } : RosterUnit) = t.roster := by rw [← hs]
    exact this.symm ▸ l
  | some sl => exact l.slot (sl := sl) hs (confirm_keeps sl k).1 (confirm_keeps sl k).2

theorem mem_insertEntry {e f : Entry} {l : List Entry} (h : f ∈ insertEntry e l) : f = e ∨ f ∈ l := by
  induction l with
  | nil => simpa [insertEntry] using h
  | cons g rest ih =>
    rw [insertEntry] at h
    split at h
    · rcases List.mem_cons.mp h with rfl | h
      · exact .inr List.mem_cons_self
      · rcases ih h with h | h
        · exact .inl h
        · exact .inr (List.mem_cons_of_mem _ h)
    · exact List.mem_cons.mp h

section Taken
variable {k : Station} (h : Effect p s t) (hr : p.roster = true) (hs : p.store = true) (hq : p.queue = true)
  (hc : p.console = true) (hk : p.shock = true)
include h hr hs hq hc hk

omit hs hq hc hk in
@[simp] theorem sync_effect : Effect p s (t.sync k) := mapEntry_effect h hr fun _ => rfl

@[simp] theorem takeSilence_effect {b : Roster} : Effect p s (t.takeSilence b k) := by
  unfold State.takeSilence
  exact ite_effect (trigger_effect (sync_effect h hr) hr hs hq hc hk) h

omit hs hq hc hk in
@[simp] theorem showSilence_effect : Effect p s (t.showSilence k) := by
  unfold State.showSilence
  exact ite_effect (sync_effect h hr) h

@[simp] theorem rosterSilence_effect : Effect p s (t.rosterSilence k) := by
  unfold State.rosterSilence
  exact ite_effect (rosterEvent_effect (takeSilence_effect h hr hs hq hc hk) hr hq hc) h

omit hs hk in
/-- A note that is a trigger does what its work does with its sender shown as heard. -/
theorem noteEvent_effect {w : Roster → State → State}
    (hw : ∀ u, Effect p s u → Effect p s (w t.roster.record u)) : Effect p s (t.noteEvent k w) :=
  rosterEvent_effect (hw _ (showSilence_effect h hr)) hr hq hc

/-- A note that is no trigger does what its work does after the end of its sender's silence. -/
theorem quietEvent_effect {w : Roster → State → State}
    (hw : ∀ u, Effect p s u → Effect p s (w t.roster.record u)) : Effect p s (t.quietEvent k w) :=
  rosterEvent_effect (hw _ (takeSilence_effect h hr hs hq hc hk)) hr hq hc

omit hs hk in
theorem onEntry_effect {w : Roster → State → State}
    (hw : ∀ u, Effect p s u → Effect p s (w t.roster.record u)) : Effect p s (t.onEntry k w) := by
  unfold State.onEntry
  exact ite_effect (noteEvent_effect h hr hq hc hw) h

@[simp] theorem rosterLost_effect : Effect p s (t.rosterLost k) := by
  refine onEntry_effect h hr hq hc fun u h => ?_
  dsimp only
  split
  · exact loseLeaving_effect (noteState_effect h hr) hr hs hq hc hk
  · exact trigger_effect (noteState_effect h hr) hr hs hq hc hk

@[simp] theorem rosterFault_effect : Effect p s (t.rosterFault k) := by
  refine onEntry_effect h hr hq hc fun u h => ?_
  dsimp only
  split
  · split
    · exact trigger_effect (noteState_effect h hr) hr hs hq hc hk
    · exact abortHandover_effect (noteState_effect h hr) hr hs hq hc hk
  · exact trigger_effect (noteState_effect h hr) hr hs hq hc hk

@[simp] theorem rosterGone_effect : Effect p s (t.rosterGone k) := by
  refine onEntry_effect h hr hq hc fun u h => ?_
  dsimp only
  split
  · exact completeHandover_effect (noteState_effect h hr) hr hs hq hc hk
  · exact trigger_effect (noteState_effect h hr) hr hs hq hc hk

@[simp] theorem rosterTaken_effect : Effect p s (t.rosterTaken k) :=
  onEntry_effect h hr hq hc fun _ h => trigger_effect (confirmTaker_effect h hr) hr hs hq hc hk

omit hs hq hc hk in
@[simp] theorem markDrained_effect : Effect p s (t.markDrained k) := by
  unfold State.markDrained
  split
  · rename_i sl hsl
    refine withUnit_effect h hr fun l => ?_
    have : t.roster.slot = some sl := by
      unfold RosterUnit.leavingSlot at hsl
      split at hsl
      · split at hsl
        · cases hsl; assumption
        · cases hsl
      · cases hsl
    exact l.slot this rfl rfl
  · exact h

@[simp] theorem rosterDrained_effect : Effect p s (t.rosterDrained k) := by
  unfold State.rosterDrained
  exact ite_effect (quietEvent_effect h hr hs hq hc hk fun _ h => markDrained_effect h hr) h

omit hs hq hc hk in
theorem insertNew (e : Entry) (hb : t.roster.record.entries.length < 3)
    (hn : rosterEntry t.roster.record e.station = none) :
    Effect p s (t.withRecord fun r => { r with entries := insertEntry e r.entries }) := by
  refine withUnit_effect h hr fun l => ⟨?_, ?_, l.waiting, l.leaving, l.timer⟩
  · have : ∀ m : List Entry, (insertEntry e m).length = m.length + 1 := by
      intro m
      induction m with
      | nil => rfl
      | cons f rest ih =>
        rw [insertEntry]
        split
        · simp [ih]
        · rfl
    simp only [this]
    omega
  · have fresh : ∀ f ∈ t.roster.record.entries, f.station ≠ e.station := by
      intro f hf
      have := List.find?_eq_none.mp hn f hf
      simpa using this
    have asc := l.ascending
    clear hn hb l
    revert asc fresh
    dsimp only
    generalize t.roster.record.entries = m
    induction m with
    | nil => exact fun _ _ => List.pairwise_singleton ..
    | cons f rest ih =>
      intro fresh asc
      rw [List.pairwise_cons] at asc
      rw [insertEntry]
      have hf := fresh f List.mem_cons_self
      split
      · rename_i hlt
        rw [List.pairwise_cons]
        refine ⟨fun g hg => ?_, ih (fun g hg => fresh g (List.mem_cons_of_mem _ hg)) asc.2⟩
        rcases mem_insertEntry hg with rfl | hg
        · exact hlt
        · exact asc.1 g hg
      · rename_i hge
        have hlt : e.station < f.station := by
          have := Fin.val_ne_of_ne hf
          simp only [Fin.lt_def] at hge ⊢
          omega
        rw [List.pairwise_cons, List.pairwise_cons]
        refine ⟨fun g hg => ?_, asc⟩
        rcases List.mem_cons.mp hg with rfl | hg
        · exact hlt
        · exact Nat.lt_trans hlt (asc.1 g hg)

@[simp] theorem enterBay_effect {b : Roster} {r : BaySummary} {k' : ShockState}
    (hn : rosterEntry t.roster.record k = none) : Effect p s (t.enterBay b k r k') := by
  unfold State.enterBay
  split
  · exact h
  · split
    · exact setCond_effect h hq hc
    · rename_i st _ hl
      exact trigger_effect (insertNew h hr _ (by omega) hn) hr hs hq hc hk

@[simp] theorem followBay_effect {b : Roster} {e : Entry} {r : BaySummary} {k' : ShockState} {n : Bool} :
    Effect p s (t.followBay b k e r k' n) := by
  have hm := settleRoster_effect (k := k) (b := r) (shock := k') h hr
  unfold State.followBay
  dsimp only
  have plain : ∀ c : Bool, Effect p s (if c = true then
      (t.withRecord fun r' => settleRoster r' k r k').trigger b
      else t.withRecord fun r' => settleRoster r' k r k') := by
    intro c
    split
    · exact trigger_effect hm hr hs hq hc hk
    · exact hm
  split
  · exact plain _
  · split
    · exact loseLeaving_effect hm hr hs hq hc hk
    · split
      · exact completeHandover_effect (noteState_effect hm hr) hr hs hq hc hk
      · split
        · exact abortHandover_effect hm hr hs hq hc hk
        · exact plain _

@[simp] theorem rosterBeacon_effect {r : BaySummary} {k' : ShockState} :
    Effect p s (t.rosterBeacon k r k') := by
  unfold State.rosterBeacon
  split
  · refine noteEvent_effect h hr hq hc fun u hu => ?_
    dsimp only
    split
    · rename_i hn
      exact enterBay_effect hu hr hs hq hc hk hn
    · split
      · exact confirmTaker_effect (followBay_effect hu hr hs hq hc hk) hr
      · exact followBay_effect hu hr hs hq hc hk
  · exact h

omit k in
@[simp] theorem rosterAdapter_effect {b : Bool} : Effect p s (t.rosterAdapter b) := by
  have ha : Effect p s (t.withRecord fun r => { r with adapter := b }) := withRecord_effect h hr rfl (.refl _)
  unfold State.rosterAdapter
  split
  · exact rosterEvent_effect (trigger_effect ha hr hs hq hc hk) hr hq hc
  · split
    · exact ha
    · exact h

@[simp] theorem takeAsk_effect {b : Roster} {o : Origin} : Effect p s (t.takeAsk b k o) := by
  unfold State.takeAsk
  split
  · exact sendTo_effect h hq hc
  · split
    · exact sendTo_effect h hq hc
    · split
      · exact sendTo_effect h hq hc
      · split
        · exact releaseWithout_effect h hs hq hc
        · split
          · exact h
          · split
            · split
              · refine sendTo_effect (withUnit_effect h hr fun l => ⟨l.entries, l.ascending, ?_, l.leaving,
                  l.timer⟩) hq hc
                simp
                omega
              · exact sendTo_effect h hq hc
            · exact tryStart_effect h hr hq hc hk

@[simp] theorem rosterAsk_effect {o : Origin} : Effect p s (t.rosterAsk k o) := by
  unfold State.rosterAsk
  exact ite_effect (quietEvent_effect h hr hs hq hc hk fun _ h => takeAsk_effect h hr hs hq hc hk) h

omit k in
@[simp] theorem rosterTimeout_effect : Effect p s t.rosterTimeout := by
  unfold State.rosterTimeout
  split
  · refine rosterEvent_effect ?_ hr hq hc
    split
    · rename_i sl hsl
      split
      · exact abortHandover_effect h hr hs hq hc hk
      · rename_i hp
        refine withUnit_effect (sendTo_effect h hq hc) hr fun l => ⟨l.entries, l.ascending, l.waiting, l.leaving, ?_⟩
        have e : (t.sendTo sl.leaving (.letGo .handover)).roster = t.roster :=
          (sendTo_effect (p := { queue := true, console := true }) (Effect.refl _ t) rfl rfl).roster rfl
        simp [RosterUnit.timed, e, hsl, hp]
      · exact h
    · exact h
  · exact h

omit k hs hk in
@[simp] theorem rosterPublish_effect : Effect p s t.rosterPublish := by
  unfold State.rosterPublish
  split
  · split
    · exact sendAll_effect (withUnit_effect h hr fun l => ⟨l.entries, l.ascending, l.waiting, l.leaving, l.timer⟩)
        hq hc
    · exact publish_effect h hr hq hc
  · exact h

omit k hs hq hc hk in
@[simp] theorem suspendSlot_effect : Effect p s t.suspendSlot := by
  unfold State.suspendSlot
  split
  · rename_i sl hsl
    split
    · exact h
    · refine withUnit_effect h hr fun l => ⟨l.entries, l.ascending, l.waiting, ?_, rfl⟩
      have := l.leaving
      rw [hsl] at this
      exact this
  · exact h

omit k in
@[simp] theorem judge_effect {b : Roster} {f : Station → Bool} {d : List Station} {c : Bool} :
    Effect p s (t.judge b f d c) := by
  unfold State.judge
  split
  · rename_i hsl
    split
    · exact ite_effect (abortHandover_effect (dropTakers_effect h hr hsl) hr hs hq hc hk)
        (loseTakers_effect h hr hs hq hc hk hsl)
    · exact ite_effect (trigger_effect h hr hs hq hc hk) h
  · exact ite_effect (recompute_effect h hr hq hc) h

omit k in
@[simp] theorem judgeAt_effect {b : Roster} {f : Station → Bool} {n : Option Station} :
    Effect p s (t.judgeAt b f n) := by
  cases n with
  | none => exact judge_effect h hr hs hq hc hk
  | some k =>
    exact ite_effect (judge_effect (sync_effect h hr) hr hs hq hc hk) (judge_effect h hr hs hq hc hk)

omit k in
@[simp] theorem resumeSlot_effect {b : Roster} : Effect p s (t.resumeSlot b) := by
  unfold State.resumeSlot
  split
  · rename_i sl hsl
    split
    · refine withUnit_effect h hr fun l => ⟨l.entries, l.ascending, l.waiting, ?_, ?_⟩
      · have := l.leaving
        rw [hsl] at this
        exact this
      · cases sl.letGoSent <;> rfl
    · exact h
  · exact serveList_effect h hr hs hq hc hk

omit k hs hq hc hk in
@[simp] theorem emptyRoster_effect : Effect p s t.emptyRoster :=
  withUnit_effect h hr fun _ => ⟨Nat.zero_le _, .nil, Nat.zero_le _, rfl, rfl⟩

end Taken

/-! ### Leaving DEFERRED -/

/-- The entries of a roster being rebuilt: at most 3, ascending, each below a station. -/
def Rebuilt (n : Nat) (l : List Entry) : Prop :=
  l.length ≤ 3 ∧ (l.Pairwise fun a b => a.station < b.station) ∧ ∀ e ∈ l, e.station.val < n

theorem adoptBay_rebuilt {k : Station} (hl : Rebuilt k.val s.roster.record.entries) :
    Rebuilt (k.val + 1) (s.adoptBay k).roster.record.entries := by
  have same : Rebuilt (k.val + 1) s.roster.record.entries :=
    ⟨hl.1, hl.2.1, fun e he => Nat.lt_succ_of_lt (hl.2.2 e he)⟩
  have cond : (s.setCond .bayExcess).roster = s.roster :=
    (setCond_effect (p := { queue := true, console := true }) (Effect.refl _ s) rfl rfl).roster rfl
  unfold State.adoptBay
  dsimp only
  split
  · split
    · split
      · rename_i st _
        split
        · rw [cond]; exact same
        · rename_i hlt
          have at_end : ∀ (e : Entry) (m : List Entry), (∀ f ∈ m, f.station < e.station) →
              insertEntry e m = m ++ [e] := by
            intro e m
            induction m with
            | nil => exact fun _ => rfl
            | cons f rest ih =>
              intro hm
              rw [insertEntry, if_pos (hm f List.mem_cons_self),
                ih fun g hg => hm g (List.mem_cons_of_mem _ hg)]
              rfl
          simp only [withRecord_roster]
          rw [at_end _ _ fun f hf => hl.2.2 f hf]
          refine ⟨by simp; omega, List.pairwise_append.mpr ⟨hl.2.1, List.pairwise_singleton .., ?_⟩, ?_⟩
          · intro a ha b hb
            rw [List.mem_singleton.mp hb]
            exact hl.2.2 a ha
          · intro e he
            rcases List.mem_append.mp he with he | he
            · exact same.2.2 e he
            · rw [List.mem_singleton.mp he]; exact Nat.lt_succ_self _
      · exact same
    · exact same
  · exact same

theorem adoptBay_effect {k : Station} (h : Effect p s t) (hr : p.roster = true) (hq : p.queue = true)
    (hc : p.console = true) (hl : Rebuilt k.val t.roster.record.entries) : Effect p s (t.adoptBay k) := by
  have after := adoptBay_rebuilt hl
  unfold State.adoptBay at after ⊢
  dsimp only at after ⊢
  split
  · rename_i h1
    simp only [h1, if_true] at after
    split
    · rename_i b hb
      simp only [hb] at after
      split
      · rename_i st hst
        simp only [hst] at after
        split
        · exact setCond_effect h hq hc
        · rename_i hlt
          rw [if_neg hlt] at after
          exact withUnit_effect h hr fun l => ⟨after.1, after.2.1, l.waiting, l.leaving, l.timer⟩
      · exact h
    · exact h
  · exact h

@[simp] theorem rebuildRoster_effect (h : Effect p s t) (hr : p.roster = true) (hq : p.queue = true)
    (hc : p.console = true) : Effect p s t.rebuildRoster := by
  have step : ∀ (k : Station) (n : Nat), k.val = n → ∀ u : State,
      Effect p s u ∧ Rebuilt n u.roster.record.entries →
      Effect p s (u.adoptBay k) ∧ Rebuilt (n + 1) (u.adoptBay k).roster.record.entries := by
    intro k n e u hu
    subst e
    exact ⟨adoptBay_effect hu.1 hr hq hc hu.2, adoptBay_rebuilt hu.2⟩
  have all : ∀ (l : List Station) (n : Nat), l.map Fin.val = List.range' n l.length → ∀ u : State,
      Effect p s u ∧ Rebuilt n u.roster.record.entries → Effect p s (l.foldl State.adoptBay u) := by
    intro l
    induction l with
    | nil => exact fun _ _ _ hu => hu.1
    | cons k l ih =>
      intro n hn u hu
      simp only [List.map_cons, List.length_cons, List.range'_succ, List.cons.injEq] at hn
      exact ih (n + 1) hn.2 _ (step k n hn.1 u hu)
  have all := all stations 0 (by decide) (t.withRecord fun r => { r with entries := [] })
    ⟨withRecord_effect h hr rfl (List.nil_sublist _), Nat.zero_le _, .nil, by simp⟩
  unfold State.rebuildRoster
  dsimp only
  split
  · exact publish_effect (recompute_effect all hr hq hc) hr hq hc
  · exact recompute_effect all hr hq hc

@[simp] theorem firstRoster_effect (h : Effect p s t) (hr : p.roster = true) (hq : p.queue = true)
    (hc : p.console = true) : Effect p s t.firstRoster :=
  sendAll_effect (recompute_effect
    (withUnit_effect h hr fun l => ⟨l.entries, l.ascending, l.waiting, l.leaving, l.timer⟩) hr hq hc) hq hc

end Sys2Proof.Machine
end

