-- ==== Sys2Proof/Laws/Bay.lean ====
section
/-! SUPPORT. What the Bay Controller's operations can do: they keep the path law (R47), and change the Bay
Controller, the Shock Monitor's record that awaits a result, and what sending a note and writing a record change. -/

namespace Sys2Proof.Machine

variable {p : Parts} {s t : State}

/-- A transition opens or closes the path as its state gives (R47). -/
theorem BayLaw.go (b : Bay) (st : BayState) : BayLaw (b.go st) := rfl

section Controller
variable (h : Effect p s t) (hb : p.bay = true) (hs : p.store = true) (hq : p.queue = true)
  (hc : p.console = true) (hk : p.shock = true)
include h

@[simp] theorem sendBase_effect {b : NoteBody} (hq : p.queue = true) (hc : p.console = true) :
    Effect p s (t.sendBase b) := send_effect h hq hc

@[simp] theorem handPack_effect {c : PackCause} {b : BayState} {f : Option FailingQuantity} (hs : p.store = true)
    (hq : p.queue = true) (hc : p.console = true) : Effect p s (t.handPack c b f) := hand_effect h hs hq hc

include hb in
@[simp] theorem seat_effect : Effect p s (t.withBay Bay.seat) := withBay_effect h hb (by intro _; rfl)

include hb in
@[simp] theorem refuseAsk_effect : Effect p s (t.withBay Bay.refuseAsk) := withBay_effect h hb id

include hb in
@[simp] theorem openPath_effect : Effect p s t.openPath := by
  unfold State.openPath
  split
  · exact h
  · exact withBay_effect h hb (by intro _; rfl)

include hb in
@[simp] theorem returnReady_effect : Effect p s t.returnReady := by
  unfold State.returnReady
  split
  · exact withBay_effect h hb id
  · split
    · exact h
    · exact openPath_effect h hb

include hb hq hc

@[simp] theorem actOnImage_effect : Effect p s t.actOnImage := by
  unfold State.actOnImage
  split
  · exact h
  · dsimp only
    split
    · split
      · split
        · split
          · exact h
          · exact sendBase_effect (withBay_effect h hb (by intro _; rfl)) hq hc
        · exact h
      · exact h
    · split
      · split
        · exact withBay_effect h hb (by intro _; rfl)
        · split
          · exact withBay_effect h hb id
          · exact returnReady_effect h hb
      · exact returnReady_effect h hb
    · split
      · split
        · exact withBay_effect h hb (by intro _; rfl)
        · split
          · exact h
          · exact openPath_effect h hb
      · exact openPath_effect h hb
    · exact h

@[simp] theorem bayImage_effect {o : Option Image} {n : Image} : Effect p s (t.bayImage o n) := by
  unfold State.bayImage
  dsimp only
  refine actOnImage_effect (ite_effect (refuseAsk_effect ?_ hb) ?_) hb hq hc
  · exact withBay_effect h hb id
  · exact withBay_effect h hb id

@[simp] theorem sendAsk_effect {o : Origin} : Effect p s (t.sendAsk o) :=
  sendBase_effect (withBay_effect h hb id) hq hc

omit hq hc in
@[simp] theorem bayReleaseNo_effect {r : ReleaseReason} : Effect p s (t.bayReleaseNo r) := by
  unfold State.bayReleaseNo
  dsimp only
  exact withBay_effect h hb id

omit hq hc in
@[simp] theorem baySilence_effect {k : Station} : Effect p s (t.baySilence k) := by
  unfold State.baySilence
  split
  · split
    · exact refuseAsk_effect h hb
    · exact h
  · exact h

@[simp] theorem bayCalm_effect : Effect p s t.bayCalm := by
  unfold State.bayCalm
  dsimp only
  refine withBay_effect ?_ hb id
  split
  · exact sendAsk_effect (actOnImage_effect h hb hq hc) hb hq hc
  · exact actOnImage_effect h hb hq hc

@[simp] theorem bayRunning_effect : Effect p s t.bayRunning := by
  unfold State.bayRunning
  dsimp only
  split
  · exact sendBase_effect (withBay_effect (actOnImage_effect h hb hq hc) hb id) hq hc
  · exact actOnImage_effect h hb hq hc

include hs hk

@[simp] theorem endRole_effect : Effect p s t.endRole := by
  have k : Effect p s (t.withBay fun b => { b with check := none, checkForRole := false }) :=
    withBay_effect h hb id
  unfold State.endRole
  dsimp only
  split
  · exact roleResult_effect k hs hq hc hk
  · exact k

@[simp] theorem goEmpty_effect : Effect p s t.goEmpty :=
  endRole_effect (withBay_effect h hb (by intro _; rfl)) hb hs hq hc hk

@[simp] theorem goLost_effect : Effect p s t.goLost :=
  endRole_effect (handPack_effect (sendBase_effect (withBay_effect h hb (by intro _; rfl)) hq hc) hs hq hc)
    hb hs hq hc hk

@[simp] theorem goFaulted_effect {c : FaultCause} {f : Option FailingQuantity} :
    Effect p s (t.goFaulted c f) :=
  endRole_effect (setCond_effect (handPack_effect (sendBase_effect (withBay_effect h hb (by intro _; rfl)) hq hc)
    hs hq hc) hq hc) hb hs hq hc hk

@[simp] theorem goFreed_effect : Effect p s t.goFreed :=
  endRole_effect (sendBase_effect (withBay_effect h hb (by intro _; rfl)) hq hc) hb hs hq hc hk

@[simp] theorem bayLetGo_effect {k : Station} : Effect p s (t.bayLetGo k) := by
  unfold State.bayLetGo
  dsimp only
  exact ite_effect (goFreed_effect h hb hs hq hc hk) h

@[simp] theorem takeSample_effect {q : PackSample} (hf : p.free = true) : Effect p s (t.takeSample q) := by
  have k : Effect p s (t.withBay fun b => { b with sample := q }) := withBay_effect h hb id
  have one : ∀ (u : State) (o : SampleOutcome), Effect p s u → Effect p s (u.sampleOutcome q o) := by
    intro u o hu
    cases o with
    | checkFail =>
      simp only [State.sampleOutcome, State.failCheck]
      split
      · exact goFaulted_effect (spend_effect hu hf) hb hs hq hc hk
      · exact goFaulted_effect hu hb hs hq hc hk
    | lost => exact goLost_effect hu hb hs hq hc hk
    | hot => exact goFaulted_effect hu hb hs hq hc hk
  unfold State.takeSample
  dsimp only
  split
  · unfold State.quietSample
    split
    · exact sendBase_effect (withBay_effect k hb id) hq hc
    · split
      · exact withBay_effect k hb id
      · exact k
  · exact one _ _ k
  · exact one _ _ (spend_effect k hf)

omit hk in
@[simp] theorem rescueClose_effect : Effect p s t.rescueClose :=
  handPack_effect (withBay_effect h hb (by intro _; rfl)) hs hq hc

@[simp] theorem bayRoleCheck_effect : Effect p s t.bayRoleCheck := by
  unfold State.bayRoleCheck
  split
  · exact roleResult_effect h hs hq hc hk
  · split
    · exact roleResult_effect h hs hq hc hk
    · split
      · exact withBay_effect h hb id
      · exact withBay_effect h hb id

@[simp] theorem passCheck_effect : Effect p s t.passCheck := by
  have k : Effect p s (t.withBay fun b =>
      let ended := { b with check := none, checkForRole := false }
      if b.state = .seated then ended.go .ready else ended) := by
    refine withBay_effect h hb fun l => ?_
    dsimp only
    split
    · rfl
    · exact l
  unfold State.passCheck
  dsimp only
  split
  · exact roleResult_effect k hs hq hc hk
  · exact k

end Controller

/-- The starting state of a BAY has its path as the state gives (R47, R63). -/
theorem startBay_law (s : State) : BayLaw s.startBay.bay := by
  simp only [State.startBay, withBay_bay]
  split
  · rfl
  · split
    · rfl
    · rfl

end Sys2Proof.Machine
end

