-- ==== Sys2Proof/Laws/Panel.lean ====
section
/-! SUPPORT. What the Panel Controller's and the Backlight Supply's operations can do: they leave no zone above its
target, and none driven under a string test's hold (R76 to R78), and change the two blocks, the Shock Monitor's
record that awaits a result, and what sending a note and writing a record change. -/

namespace Sys2Proof.Machine

variable {p : Parts} {s t : State}

/-- After the cuts of a recomputation the law of the panel holds, whatever it was before (R76, R78). -/
theorem cut_law (q : Panel) (b : Supply) : PanelLaw (q.cut b.test.isSome) b where
  below := by
    intro z
    simp only [Panel.cut, Fin.getElem_fin, Vector.getElem_map]
    split
    · exact Nat.zero_le _
    · exact Nat.min_le_right ..
  held := by
    intro h z
    simp only [Panel.cut, Fin.getElem_fin, Vector.getElem_map, h, if_true]

/-- A state reached by changing panel and supply alone, in which their law holds. -/
theorem lit_effect {q : Panel} {b : Supply} (h : Effect p s t) (hp : p.panel = true) (hb : p.supply = true)
    (hl : PanelLaw q b) : Effect p s { t with panel := q, supply := b } :=
  { h with
    panel := fun e => absurd (hp.symm.trans e) (by decide)
    supply := fun e => absurd (hb.symm.trans e) (by decide)
    panelLaw := fun _ => hl }

theorem retarget_law (s : State) : PanelLaw s.retarget.panel s.retarget.supply :=
  cut_law _ _

/-- A recomputation after work on the panel and the supply alone. -/
theorem retarget_effect {u : State} (h : Effect p s t) (hp : p.panel = true) (hb : p.supply = true)
    (hu : u = { t with panel := u.panel, supply := u.supply }) : Effect p s u.retarget := by
  have e : u.retarget = { t with panel := u.retarget.panel, supply := u.supply } := by
    rw [hu]; rfl
  rw [e]
  exact lit_effect h hp hb (retarget_law u)

/-- A change of the supply that leaves its test keeps the law. -/
theorem supply_effect {f : Supply → Supply} (h : Effect p s t) (hb : p.supply = true)
    (hf : (f t.supply).test = t.supply.test) : Effect p s (t.withSupply f) :=
  withSupply_effect h hb fun l => ⟨l.below, fun k => l.held (by rw [← hf]; exact k)⟩

/-- A ramp step raises no zone above its target (R77). -/
theorem rise_law {q : Panel} {b : Supply} (l : PanelLaw q b) (hh : b.test.isSome = false) (r : Option Nat) :
    PanelLaw { q with zones := q.zones.map Zone.rise, ramp := r } b where
  below := by
    intro z
    have := l.below z
    simp only [Fin.getElem_fin] at this
    simp only [Fin.getElem_fin, Vector.getElem_map, Zone.rise]
    split
    · exact Nat.min_le_right ..
    · exact this
  held := by simp [hh]

section Controller
variable (h : Effect p s t) (hp : p.panel = true) (hb : p.supply = true) (hq : p.queue = true)
  (hc : p.console = true)
include h hb

@[simp] theorem indicate_effect : Effect p s t.indicate := supply_effect h hb rfl

include hq hc in
@[simp] theorem boostTest_effect : Effect p s t.boostTest := by
  have k : Effect p s (t.withSupply fun b => { b with stage := t.boostOutcome.1 }) := supply_effect h hb rfl
  unfold State.boostTest
  dsimp only
  split
  · exact setCond_effect k hq hc
  · exact k

include hp hq hc

@[simp] theorem settlePanel_effect {u : State} : Effect p s (t.settlePanel u) := by
  unfold State.settlePanel
  dsimp only
  have again : ∀ v, Effect p s v → Effect p s v.retarget := fun v hv => retarget_effect hv hp hb rfl
  have left : Effect p s (if (t.supply.stage == .off && t.panel.anyTarget && !u.panel.anyTarget) = true then
      (t.withSupply fun b => { b with stage := t.entryStage }).retarget else t) :=
    ite_effect (again _ (supply_effect h hb rfl)) h
  generalize (if (t.supply.stage == .off && t.panel.anyTarget && !u.panel.anyTarget) = true then
      (t.withSupply fun b => { b with stage := t.entryStage }).retarget else t) = v at left ⊢
  have seen := indicate_effect left hb
  refine withPanel_effect (supply_effect (ite_effect (indicate_effect (again _ (boostTest_effect seen hb hq hc)) hb)
    seen) hb rfl) hp fun l => ⟨l.below, l.held⟩

/-- An event that recomputes the targets, whose work is on the panel and the supply alone. -/
theorem panelEvent_effect {w : State → State}
    (hw : w t = { t with panel := (w t).panel, supply := (w t).supply }) : Effect p s (t.panelEvent w) :=
  settlePanel_effect (retarget_effect h hp hb hw) hp hb hq hc

@[simp] theorem panelImage_effect {u : State} : Effect p s (t.panelImage u) := by
  unfold State.panelImage
  dsimp only
  have staged : Effect p s (t.withSupply fun b => { b with stage := t.imageStage u.imageReleasing }) :=
    supply_effect h hb rfl
  exact settlePanel_effect (retarget_effect (ite_effect (boostTest_effect staged hb hq hc) staged) hp hb rfl) hp hb
    hq hc

@[simp] theorem readAmbient_effect {lux : Nat} : Effect p s (t.readAmbient lux) := by
  have k : Effect p s (t.withPanel fun q => { q with filter := joinFilter t.panel.filter lux }) :=
    withPanel_effect h hp fun l => ⟨l.below, l.held⟩
  unfold State.readAmbient
  dsimp only
  split
  · split
    · exact panelEvent_effect k hp hb hq hc rfl
    · exact k
  · exact k

@[simp] theorem rampStep_effect : Effect p s t.rampStep := by
  unfold State.rampStep
  split
  · exact withPanel_effect h hp fun l => ⟨l.below, l.held⟩
  · rename_i hh
    refine settlePanel_effect (withPanel_effect h hp fun l => ?_) hp hb hq hc
    exact rise_law l (by simpa [State.hold] using hh) none

@[simp] theorem startTest_effect {g : TestTrigger} : Effect p s (t.startTest g) := by
  let b : Supply := { t.supply with
    test := some { trigger := g, testSet := testSet t.config, timer := Config.testMs } }
  have k := lit_effect (q := t.panel.cut true) (b := b) h hp hb (cut_law t.panel b)
  exact settlePanel_effect k hp hb hq hc

@[simp] theorem endHold_effect : Effect p s t.endHold := panelEvent_effect h hp hb hq hc rfl

@[simp] theorem overtakeTest_effect {f : TestTrigger → Bool} : Effect p s (t.overtakeTest f) := by
  unfold State.overtakeTest
  split
  · split
    · dsimp only
      exact ite_effect (refuse_effect (endHold_effect h hp hb hq hc) hq hc) (endHold_effect h hp hb hq hc)
    · exact h
  · exact h

omit hp hb in
@[simp] theorem reportTest_effect {g : StringTest} (hs : p.store = true) (hk : p.shock = true) :
    Effect p s (t.reportTest g) := by
  unfold State.reportTest
  split
  · exact h
  · exact roleResult_effect h hs hq hc hk
  · exact reply_effect h hq hc

@[simp] theorem completeTest_effect {g : StringTest} {m : Vector Measure 6} (hs : p.store = true)
    (hk : p.shock = true) : Effect p s (t.completeTest g m) := by
  unfold State.completeTest
  dsimp only
  have set : Effect p s ((t.withSupply fun b => { b with results := resultsAfter t.supply g.testSet m }).withPanel
      fun q => { q with zones := zonesAfter q g.testSet (resultsAfter t.supply g.testSet m) }) := by
    refine withPanel_effect (supply_effect h hb rfl) hp fun l => ⟨?_, ?_⟩
    · intro z
      have := l.below z
      simpa [zonesAfter] using this
    · intro k z
      have := l.held k z
      simpa [zonesAfter] using this
  refine reportTest_effect (endHold_effect ?_ hp hb hq hc) hq hc hs hk
  have told := ite_effect (c := (g.testSet.any fun z => (resultsAfter t.supply g.testSet m)[z].faulty) = true)
    (setCond_effect (c := .stringFault) set hq hc) set
  exact ite_effect (hand_effect told hs hq hc) told

end Controller

end Sys2Proof.Machine
end

