-- ==== Sys2Proof/Laws/Monitor.lean ====
section
/-! SUPPORT. What the Shock Monitor's and the episode coordinator's operations can do: they keep a record in
progress exactly outside CALM (R102), and every other law. -/

namespace Sys2Proof.Machine

variable {p : Parts} {s t : State}

/-- The parts an episode's event may change: the outgoing queue and LA, the Console Service, the store, and the
blocks that R115 names. -/
structure EpisodeParts (p : Parts) : Prop where
  queue : p.queue = true
  line : p.line = true
  console : p.console = true
  store : p.store = true
  roster : p.roster = true
  bay : p.bay = true
  panel : p.panel = true
  supply : p.supply = true
  shock : p.shock = true
  coord : p.coord = true

/-! ### The Shock Monitor's law -/

/-- A change of the record in progress alone keeps the law. -/
theorem ShockLaw.mapEpisode {k : Shock} (h : ShockLaw k) (f : Episode → Episode) : ShockLaw (k.mapEpisode f) := by
  simpa only [ShockLaw, Shock.mapEpisode, Option.map_eq_none_iff] using h

/-- A change of state between states other than CALM keeps the law. -/
theorem ShockLaw.move {k m : Shock} (h : ShockLaw k) (hn : k.state ≠ .calm) (hm : m.state ≠ .calm)
    (he : m.episode = none → k.episode = none) : ShockLaw m :=
  ⟨fun e => absurd e hm, fun e => absurd (h.mpr (he e)) hn⟩

theorem mapEpisode_none {k : Shock} {f : Episode → Episode} (h : (k.mapEpisode f).episode = none) :
    k.episode = none := by simpa [Shock.mapEpisode] using h

/-! ### Starting and ending -/

section Events
variable (h : Effect p s t) (m : EpisodeParts p)
include h m

@[simp] theorem openCoordinator_effect : Effect p s t.openCoordinator :=
  suspendSlot_effect (withCoord_effect h m.coord) m.roster

@[simp] theorem beginEpisode_effect {c : Source} {k : Option Station} {f : Nat} :
    Effect p s (t.beginEpisode c k f) :=
  withShock_effect h m.shock fun _ => by simp [ShockLaw]

@[simp] theorem beginOwn_effect : Effect p s t.beginOwn :=
  sendAll_effect (driveLa_effect (beginEpisode_effect h m) m.line) m.queue m.console

@[simp] theorem beginRemote_effect {k : Option Station} : Effect p s (t.beginRemote k) := beginEpisode_effect h m

@[simp] theorem leaveCalm_effect : Effect p s t.leaveCalm := by
  have cut := cutStream_effect (o := .shockCut) h m.console
  unfold State.leaveCalm
  dsimp only
  split
  · exact panelEvent_effect (overtakeTest_effect cut m.panel m.supply m.queue m.console) m.panel m.supply m.queue
      m.console rfl
  · split
    · exact openCoordinator_effect cut m
    · exact cut
  · exact cut
  · exact cut

@[simp] theorem ownFall_effect : Effect p s t.ownFall := leaveCalm_effect (beginOwn_effect h m) m

@[simp] theorem remoteFall_effect {k : Option Station} : Effect p s (t.remoteFall k) :=
  leaveCalm_effect (beginRemote_effect h m) m

@[simp] theorem lineTest_effect : Effect p s t.lineTest := by
  unfold State.lineTest
  split
  · exact remoteFall_effect h m
  · exact h

@[simp] theorem calm_effect : Effect p s (t.withShock Shock.calm) :=
  withShock_effect h m.shock fun _ => ⟨fun _ => rfl, fun _ => rfl⟩

@[simp] theorem closeEpisodeRecord_effect {e : Episode} : Effect p s (t.closeEpisodeRecord e) := by
  unfold State.closeEpisodeRecord
  split
  · exact withShock_effect h m.shock id
  · exact hand_effect h m.store m.queue m.console

@[simp] theorem roleCalm_effect : Effect p s t.roleCalm := by
  unfold State.roleCalm
  split
  · exact bayCalm_effect h m.bay m.queue m.console
  · exact panelEvent_effect h m.panel m.supply m.queue m.console rfl
  · exact h
  · exact h

@[simp] theorem returnCalm_effect {b : CalmBy} : Effect p s (t.returnCalm b) := by
  unfold State.returnCalm
  dsimp only
  refine lineTest_effect (roleCalm_effect (setCond_effect ?_ m.queue m.console) m) m
  split
  · exact closeEpisodeRecord_effect (calm_effect h m) m
  · exact calm_effect h m

@[simp] theorem sendCalm_effect {r : CloseReason} : Effect p s (t.sendCalm r) := by
  unfold State.sendCalm
  split
  · exact sendAll_effect h m.queue m.console
  · exact h

@[simp] theorem closeWork_effect {r : CloseReason} {n : Option Station} {b : Roster} :
    Effect p s (State.closeWork r n b t) := by
  unfold State.closeWork
  dsimp only
  exact resumeSlot_effect (setCond_effect (calm_effect (withCoord_effect (sendCalm_effect (judgeAt_effect
    (withCoord_effect h m.coord) m.roster m.store m.queue m.console m.shock) m) m.coord) m) m.queue m.console) m.roster m.store m.queue m.console m.shock

@[simp] theorem closeEpisode_effect {r : CloseReason} {n : Option Station} : Effect p s (t.closeEpisode r n) := by
  have closed := rosterEvent_effect (w := State.closeWork r n) (closeWork_effect h m) m.roster m.queue m.console
  unfold State.closeEpisode
  dsimp only
  refine lineTest_effect (withCoord_effect ?_ m.coord) m
  split
  · exact hand_effect closed m.store m.queue m.console
  · exact closed

@[simp] theorem closeTest_effect {n : Option Station} : Effect p s (t.closeTest n) := by
  unfold State.closeTest
  split
  · exact closeEpisode_effect h m
  · exact h

/-! ### Interruption -/

@[simp] theorem interruptCoordinator_effect {n : Option Station} : Effect p s (t.interruptCoordinator n) := by
  have judged := rosterEvent_effect
    (w := fun before u => u.judgeAt before u.coord.failedAtInterruption n)
    (judgeAt_effect h m.roster m.store m.queue m.console m.shock) m.roster m.queue m.console
  unfold State.interruptCoordinator
  dsimp only
  refine withCoord_effect ?_ m.coord
  split
  · exact hand_effect judged m.store m.queue m.console
  · exact judged

@[simp] theorem dropRoleCheck_effect : Effect p s t.dropRoleCheck := by
  unfold State.dropRoleCheck
  split
  · split
    · exact overtakeTest_effect h m.panel m.supply m.queue m.console
    · exact h
  · split
    · exact h
    · exact withBay_effect h m.bay id
  · exact h
  · exact h

@[simp] theorem closeForInterruption_effect {n : Option Station} : Effect p s (t.closeForInterruption n) := by
  unfold State.closeForInterruption
  dsimp only
  refine withShock_effect (dropRoleCheck_effect ?_ m) m.shock id
  split
  · exact interruptCoordinator_effect h m
  · split
    · exact hand_effect h m.store m.queue m.console
    · exact h

@[simp] theorem reopen_effect {w : EpisodeState} : Effect p s (t.reopen w) := by
  unfold State.reopen
  split
  · exact openCoordinator_effect h m
  · exact h

@[simp] theorem interruptOwn_effect : Effect p s t.interruptOwn :=
  reopen_effect (beginOwn_effect (closeForInterruption_effect h m) m) m

@[simp] theorem interruptRemote_effect {k : Option Station} : Effect p s (t.interruptRemote k) :=
  reopen_effect (beginRemote_effect (closeForInterruption_effect h m) m) m

@[simp] theorem takeFall_effect {k : Station} : Effect p s (t.takeFall k) := by
  unfold State.takeFall
  split
  · exact remoteFall_effect (rosterSilence_effect h m.roster m.store m.queue m.console m.shock) m
  · exact interruptRemote_effect h m
  · exact interruptRemote_effect h m
  · exact withShock_effect h m.shock fun l => l.mapEpisode _
  · exact withShock_effect h m.shock fun l => l.mapEpisode _

/-! ### Samples -/

theorem enterImpact_effect {g : Nat} {ax : Axis} (hn : t.shock.state ≠ .calm) : Effect p s (t.enterImpact g ax) := by
  have k : Effect p s (t.withShock fun k =>
      { k.mapEpisode (fun e => (e.fixDuration t.config.fallTime t.falling).countImpact) with
        state := .impact, quiet := 0 }) :=
    withShock_effect h m.shock fun l => l.move hn (by simp) mapEpisode_none
  unfold State.enterImpact
  dsimp only
  split
  · exact sendAll_effect k m.queue m.console
  · exact k

theorem enterSettling_effect (hn : t.shock.state ≠ .calm) : Effect p s t.enterSettling :=
  driveLa_effect (withShock_effect h m.shock fun l => l.move hn (by simp) fun e => e) m.line

@[simp] theorem askRoleCheck_effect : Effect p s t.askRoleCheck := by
  unfold State.askRoleCheck
  split
  · exact bayRoleCheck_effect h m.bay m.store m.queue m.console m.shock
  · exact startTest_effect h m.panel m.supply m.queue m.console
  · exact withShock_effect h m.shock fun l => l.mapEpisode _
  · exact withShock_effect h m.shock fun l => l.mapEpisode _

theorem enterChecking_effect (hn : t.shock.state ≠ .calm) : Effect p s t.enterChecking := by
  have k : Effect p s (t.withShock fun k =>
      { k.mapEpisode (fun e => { e with checkPending := true }) with
        state := .checking, freeFall := 0, checking := some Config.checkingMs }) :=
    withShock_effect h m.shock fun l => l.move hn (by simp) mapEpisode_none
  have asked := askRoleCheck_effect k m
  unfold State.enterChecking
  dsimp only
  split
  · exact closeTest_effect (withCoord_effect asked m.coord) m
  · split
    · exact returnCalm_effect asked m
    · exact asked

@[simp] theorem runFalls_effect : Effect p s t.runFalls := by
  unfold State.runFalls
  split
  · exact ownFall_effect h m
  · exact interruptOwn_effect h m
  · exact interruptOwn_effect h m
  · exact h
  · exact h

@[simp] theorem takeMotion_effect {g : Nat} {ax : Axis} : Effect p s (t.takeMotion g ax) := by
  have tr : Effect p s (t.withShock fun k => k.mapEpisode (Episode.track g ax)) :=
    withShock_effect h m.shock fun l => l.mapEpisode _
  unfold State.takeMotion
  dsimp only
  split
  · unfold State.sampleCalm
    dsimp only
    exact ite_effect (ownFall_effect (withShock_effect h m.shock id) m) (withShock_effect h m.shock id)
  · rename_i hst
    split
    · exact enterImpact_effect tr m (by rw [withShock_shock]; simp [Shock.mapEpisode, hst])
    · exact tr
  · rename_i hst
    unfold State.sampleImpact
    dsimp only
    exact ite_effect (enterSettling_effect (withShock_effect tr m.shock id) m (by simp [Shock.mapEpisode, hst]))
      (withShock_effect tr m.shock id)
  · rename_i hst
    have k := withShock_effect (f := fun k => k.settlingRuns t.config.freeFallThreshold g) tr m.shock id
    unfold State.sampleSettling
    dsimp only
    split
    · exact enterImpact_effect k m (by simp [Shock.mapEpisode, Shock.settlingRuns, hst])
    · have checked := enterChecking_effect k m (by simp [Shock.mapEpisode, Shock.settlingRuns, hst])
      exact ite_effect (runFalls_effect (ite_effect checked k) m) (ite_effect checked k)
  · have k := fun (f : Nat) => withShock_effect (f := fun k => { k with freeFall := f }) tr m.shock id
    unfold State.sampleChecking
    dsimp only
    exact ite_effect (withShock_effect (k _) m.shock fun l => l.mapEpisode _)
      (ite_effect (interruptOwn_effect (k _) m) (k _))

@[simp] theorem windowEnds_effect : Effect p s t.windowEnds := by
  have k : Effect p s ((t.withShock fun k => { k with fallWindow := none }).driveLa false) :=
    driveLa_effect (withShock_effect h m.shock id) m.line
  unfold State.windowEnds
  dsimp only
  split
  · rename_i hst
    exact enterSettling_effect (withShock_effect k m.shock fun l => l.mapEpisode _) m
      (by simp [Shock.mapEpisode, hst])
  · exact k

/-! ### Notes and timers -/

@[simp] theorem takeCalm_effect : Effect p s t.takeCalm := by
  unfold State.takeCalm
  split
  · exact h
  · split
    · exact returnCalm_effect h m
    · exact withShock_effect h m.shock id
    · exact h
    · exact h
    · exact h

@[simp] theorem takeImpact_effect {k : Station} {g : Nat} {ax : Axis} : Effect p s (t.takeImpact k g ax) := by
  unfold State.takeImpact
  split
  · exact withCoord_effect h m.coord
  · exact h

@[simp] theorem takeSettled_effect {k : Station} {b : SettledNote} : Effect p s (t.takeSettled k b) := by
  unfold State.takeSettled
  split
  · exact closeTest_effect (withCoord_effect h m.coord) m
  · exact h

@[simp] theorem coordSilence_effect {k : Station} : Effect p s (t.coordSilence k) := by
  unfold State.coordSilence
  split
  · exact closeTest_effect (withCoord_effect h m.coord) m
  · exact h

@[simp] theorem checkingEnds_effect : Effect p s t.checkingEnds := by
  unfold State.checkingEnds
  split
  · exact returnCalm_effect h m
  · exact h

@[simp] theorem closingEnds_effect : Effect p s t.closingEnds := by
  unfold State.closingEnds
  split
  · exact closeEpisode_effect h m
  · exact h

end Events

end Sys2Proof.Machine
end

