-- ==== Sys2Proof/Laws/Operands.lean ====
section
/-! SUPPORT. What hearing a note can do (R171, R179, R180, R184, R185), beacons and silence, the image, and the
console's store operations: each keeps every law. -/

namespace Sys2Proof.Machine

variable {p : Parts} {s t : State}

/-- Some update of the Link Interface but for its queue. -/
theorem link_effect {l : Link} (h : Effect p s t) (hl : p.link = true) (hi : p.line = true)
    (hq : l.queue = t.link.queue) : Effect p s { t with link := l } :=
  { h with
    link := fun e => absurd (hl.symm.trans e) (by decide)
    line := fun e => absurd (hi.symm.trans e) (by decide)
    queue := fun e => hq.trans (h.queue e)
    urgent := fun n u hn => hq.symm ▸ h.urgent n u hn
    noteLaw := fun e => hq.symm ▸ h.noteLaw e }

/-- A write in RECEIVING is the store's write. -/
theorem receiving_eq {st : Store} {w : ConfigWrite} (hw : st.receiving = some w) : st.configWrite = some w := by
  unfold Store.receiving at hw
  split at hw
  · split at hw
    · cases hw; assumption
    · cases hw
  · cases hw

section Heard
variable (h : Effect p s t) (m : EpisodeParts p) (hl : p.link = true)
include h m

@[simp] theorem relight_effect {k : Station} : Effect p s (t.relight k) := by
  unfold State.relight
  split
  · exact ite_effect (panelEvent_effect h m.panel m.supply m.queue m.console rfl) h
  · exact h

/-- What is left of an end of silence after the note's own delivery. -/
@[simp] theorem attend_effect {u : State} {k : Station} : Effect p s (u.attend k t) := by
  unfold State.attend
  exact ite_effect
    (relight_effect (rosterSilence_effect h m.roster m.store m.queue m.console m.shock) m) h

include hl

@[simp] theorem heard_effect {k : Station} : Effect p s (t.heard k) := by
  have k' := setPeer_effect (k := k) (q := { t.peer k with seen := true, time := 0, silent := false }) h hl
  unfold State.heard
  dsimp only
  exact ite_effect (attentionTest_effect (relight_effect k' m) m.queue m.console) k'

@[simp] theorem hears_effect {k : Station} : Effect p s (t.hears k) := attend_effect (heard_effect h m hl) m

@[simp] theorem capture_effect {c : Capture} : Effect p s (t.capture c) := by
  unfold State.capture
  split
  · exact hand_effect (setCond_effect (link_effect h hl m.line rfl) m.queue m.console) m.store m.queue m.console
  · split
    · exact link_effect h hl m.line rfl
    · exact link_effect h hl m.line rfl

/-- A note heard does what its delivery does, or what its refresh and its capture do. -/
theorem receive_effect {kind : Kind} {k : Station} {g : Target} {f : State → State}
    (hf : ∀ u, Effect p s u → Effect p s (f u)) : Effect p s (t.receive kind k g f) := by
  unfold State.receive
  split
  · exact h
  · dsimp only
    split
    · exact hears_effect h m hl
    · split
      · exact attend_effect (hf _ (heard_effect h m hl)) m
      · exact capture_effect (hears_effect h m hl) m hl

omit hl in
@[simp] theorem noise_effect : Effect p s t.noise := ite_effect (setCond_effect h m.queue m.console) h

theorem receiveConsole_effect {kind : Kind} {k : Station} {g : Target} {f : State → State}
    (hf : ∀ u, Effect p s u → Effect p s (f u)) : Effect p s (t.receiveConsole kind k g f) :=
  receive_effect h m hl fun u hu => ite_effect (hf u hu) hu

/-! ### Beacons and silence -/

@[simp] theorem leaveDeferred_effect : Effect p s t.leaveDeferred := by
  unfold State.leaveDeferred
  split
  · exact rebuildRoster_effect (link_effect h hl m.line rfl) m.roster m.queue m.console
  · exact h

@[simp] theorem enterDeferred_effect : Effect p s t.enterDeferred := by
  have e : t.enterDeferred = (({ t with link := { t.link with deferred := true } } : State).emptyRoster).withCoord
      fun _ => {} := rfl
  rw [e]
  exact withCoord_effect (emptyRoster_effect (link_effect h hl m.line rfl) m.roster) m.coord

@[simp] theorem silenceBegins_effect {k : Station} : Effect p s (t.silenceBegins k) := by
  have marked := setPeer_effect (k := k)
    (q := { t.peer k with time := max (t.peer k).time Config.silenceMs, silent := true }) h hl
  have lit := relight_effect (k := k) (leaveDeferred_effect marked m hl) m
  have closed {u : State} (e : Effect p s u) := rosterSilence_effect (k := k) (coordSilence_effect (k := k) e m)
    m.roster m.store m.queue m.console m.shock
  unfold State.silenceBegins State.baseSilence
  dsimp only
  exact ite_effect
    (setCond_effect (closed (ite_effect (baySilence_effect lit m.bay) lit)) m.queue m.console)
    (closed (ite_effect (baySilence_effect lit m.bay) lit))

omit m in
@[simp] theorem writeBeacon_effect {k : Station} {b : Beacon} : Effect p s (t.writeBeacon k b) := setPeer_effect h hl

@[simp] theorem deliverBeacon_effect {k : Station} {b : Beacon} : Effect p s (t.deliverBeacon k b) := by
  have led : Effect p s (if (t.plays .base && b.summary.role == .base && k < t.sys.station && !t.link.deferred) = true
      then t.enterDeferred else t.leaveDeferred) :=
    ite_effect (enterDeferred_effect h m hl) (leaveDeferred_effect h m hl)
  unfold State.deliverBeacon
  dsimp only
  split
  · exact rosterBeacon_effect led m.roster m.store m.queue m.console m.shock
  · exact led

@[simp] theorem queueBeacon_effect : Effect p s t.queueBeacon :=
  sendAll_effect (link_effect h hl m.line rfl) m.queue m.console

omit hl in
@[simp] theorem takeImage_effect {n : Image} (hi : p.image = true) : Effect p s (t.takeImage n) := by
  have placed : Effect p s { t with image := some n } :=
    { h with image := fun e => absurd (hi.symm.trans e) (by decide) }
  have flagged := ite_effect (c := n.record.leaving.isSome = true) (markHandover_effect placed m.shock) placed
  unfold State.takeImage
  split
  · dsimp only
    exact ite_effect (bayImage_effect flagged m.bay m.queue m.console)
      (panelImage_effect flagged m.panel m.supply m.queue m.console)
  · exact h

omit hl in
@[simp] theorem takeLevel_effect {g : Field LevelGroup} {l : Nat} {d : Field LevelMode} :
    Effect p s (t.takeLevel g l d) := by
  unfold State.takeLevel
  split
  · exact refuse_effect h m.queue m.console
  · split
    · dsimp only
      have told := reply_effect (k := .setLevel) (r := .done) (v := .none) h m.queue m.console
      exact ite_effect told (panelEvent_effect told m.panel m.supply m.queue m.console rfl)
    · exact refuse_effect h m.queue m.console

omit hl in
@[simp] theorem takeRelease_effect : Effect p s t.takeRelease := by
  unfold State.takeRelease
  exact ite_effect (refuse_effect h m.queue m.console)
    (ite_effect (reply_effect (sendAsk_effect h m.bay m.queue m.console) m.queue m.console)
      (ite_effect (refuse_effect h m.queue m.console) (refuse_effect h m.queue m.console)))

omit hl in
@[simp] theorem takeTest_effect : Effect p s t.takeTest := by
  unfold State.takeTest
  exact ite_effect (refuse_effect h m.queue m.console) (ite_effect (refuse_effect h m.queue m.console)
    (ite_effect (refuse_effect h m.queue m.console)
      (startTest_effect h m.panel m.supply m.queue m.console)))

/-! ### Store operations -/

omit hl in
@[simp] theorem takeOp_effect {o : StoreOp} : Effect p s (t.takeOp o) := by
  unfold State.takeOp
  split
  · exact storeDone_effect h m.queue m.console
  · split
    · exact storeDone_effect h m.queue m.console
    · exact opArrived_effect (withStore_effect h m.store fun k => ⟨k.queue, k.engine, k.write⟩) m.store m.queue
        m.console

omit hl in
@[simp] theorem endWrite_effect {r : RefusalReason} : Effect p s (t.endWrite r) :=
  withStore_effect (finishOp_effect h m.store m.queue m.console) m.store fun k => ⟨k.queue, k.engine, trivial⟩

omit hl in
@[simp] theorem startWrite_effect {n : Nat} : Effect p s (t.startWrite n) := by
  unfold State.startWrite
  split
  · exact storeDone_effect h m.queue m.console
  · split
    · exact storeDone_effect h m.queue m.console
    · split
      · exact storeDone_effect h m.queue m.console
      · rename_i hn
        refine withStore_effect h m.store fun k => ⟨k.queue, k.engine, ?_⟩
        have : n = Config.configLength := by simpa using hn
        simp [WriteLaw, this, Config.configLength]

omit hl in
@[simp] theorem segmentWrite_effect {n : Nat} {b : List Byte} : Effect p s (t.segmentWrite n b) := by
  unfold State.segmentWrite
  split
  · exact h
  · rename_i w hw
    split
    · rename_i hb
      refine withStore_effect h m.store fun k => ⟨k.queue, k.engine, ?_⟩
      have l := k.write
      have e : t.store.configWrite = some w := receiving_eq hw
      rw [e] at l
      refine ⟨?_, l.2⟩
      simp [ConfigWrite.bytes] at hb ⊢
      omega
    · exact endWrite_effect h m

omit hl in
@[simp] theorem finishWrite_effect : Effect p s t.finishWrite := by
  unfold State.finishWrite
  split
  · exact h
  · rename_i w hw
    split
    · exact endWrite_effect h m
    · refine opArrived_effect (withStore_effect h m.store fun k => ⟨k.queue, k.engine, ?_⟩) m.store m.queue m.console
      have l := k.write
      have e : t.store.configWrite = some w := receiving_eq hw
      rw [e] at l
      exact l

/-! ### The log stream -/

omit hl in
@[simp] theorem handSeg_effect {st : Stream} : Effect p s (t.handSeg st) := by
  unfold State.handSeg
  split
  · exact sendTo_effect (setStream_effect h m.console) m.queue m.console
  · split
    · exact setStream_effect h m.console
    · dsimp only
      exact sendTo_effect (setStream_effect h m.console) m.queue m.console

end Heard

end Sys2Proof.Machine
end

