-- ==== Sys2Proof/Laws/Commands.lean ====
section
/-! SUPPORT. What each command keeps: the queue of commands, and the law of each block, whatever else it does. One
lemma per meaning. -/

namespace Sys2Proof.Machine

/-- An operation from `s` to `t` leaves the commands that wait, and keeps the law of each block. -/
structure Kept (s t : State) : Prop where
  pending : t.pending = s.pending
  noteLaw : NoteLaw s.link.queue → NoteLaw t.link.queue
  storeLaw : s.storeLaw → t.storeLaw
  rosterLaw : RosterLaw s.roster → RosterLaw t.roster
  pathLaw : s.pathLaw → t.pathLaw
  panelLaw : PanelLaw s.panel s.supply → PanelLaw t.panel t.supply
  shockLaw : ShockLaw s.shock → ShockLaw t.shock

/-- What an outcome keeps when it is a next state. -/
def Keeps (s : State) (o : Host.Outcome State Fault Refusal) : Prop := ∃ t, o = .next t ∧ Kept s t

theorem Kept.refl (s : State) : Kept s s := ⟨rfl, id, id, id, id, id, id⟩

theorem Kept.trans {s t u : State} (h : Kept s t) (k : Kept t u) : Kept s u where
  pending := k.pending.trans h.pending
  noteLaw := fun e => k.noteLaw (h.noteLaw e)
  storeLaw := fun e => k.storeLaw (h.storeLaw e)
  rosterLaw := fun e => k.rosterLaw (h.rosterLaw e)
  pathLaw := fun e => k.pathLaw (h.pathLaw e)
  panelLaw := fun e => k.panelLaw (h.panelLaw e)
  shockLaw := fun e => k.shockLaw (h.shockLaw e)

theorem Effect.kept {p : Parts} {s t : State} (h : Effect p s t) : Kept s t where
  pending := h.pending
  noteLaw := h.noteLaw
  storeLaw := h.storeLaw
  rosterLaw := h.rosterLaw
  pathLaw := fun e a => h.bayLaw (e (by
    simpa only [State.plays, State.awake, State.active, h.sys, h.pins] using a))
  panelLaw := h.panelLaw
  shockLaw := h.shockLaw

/-- Every part. -/
def Parts.all : Parts := ⟨true, true, true, true, true, true, true, true, true, true, true, true, true, true, true⟩

theorem all_parts : EpisodeParts Parts.all := ⟨rfl, rfl, rfl, rfl, rfl, rfl, rfl, rfl, rfl, rfl⟩

/-- An effect that may touch every part. -/
abbrev Does (s t : State) : Prop := Effect Parts.all s t

theorem Effect.keeps {p : Parts} {s t : State} (h : Effect p s t) : Keeps s (.next t) := ⟨t, rfl, h.kept⟩

theorem Kept.keeps {s t : State} (h : Kept s t) : Keeps s (.next t) := ⟨t, rfl, h⟩

theorem keeps_ite {s u v : State} {c : Prop} [Decidable c] (hu : Kept s u) (hv : Kept s v) :
    Keeps s (.next (if c then u else v)) := by
  refine ⟨_, rfl, ?_⟩
  split
  · exact hu
  · exact hv

/-- Levels on the pins that leave the part awake, or not, as it was. -/
theorem pins_kept {s : State} {q : Pins} (h : q.resetLow = s.pins.resetLow) : Kept s { s with pins := q } where
  pending := rfl
  noteLaw := id
  storeLaw := id
  rosterLaw := id
  pathLaw := fun e a => e (by simpa only [State.plays, State.awake, State.active, h] using a)
  panelLaw := id
  shockLaw := id

/-! ### Resets -/

theorem panelLaw_reset (c : Configuration) (b : Supply) : PanelLaw (Panel.reset c) b where
  below := by intro z; simp [Panel.reset, Zone.ofConfig]
  held := by intro _ z; simp [Panel.reset, Zone.ofConfig]

theorem rosterLaw_reset (a : Bool) : RosterLaw (RosterUnit.reset a) :=
  ⟨Nat.zero_le _, .nil, Nat.zero_le _, rfl, rfl⟩

theorem storeLaw_reset : StoreLaw {} := ⟨RecordLaw.nil, trivial, trivial⟩

theorem cutEngine_wf {f : Flash} {op : EngineOp} {n : Nat} (hf : f.wf = true) (ho : EngineLaw op) :
    (cutEngine f op n).wf = true := by
  rw [Flash.wf_iff] at hf ⊢
  cases op with
  | program r off bytes sequence drop =>
    have := regionBase_le r
    simp only [EngineLaw] at ho
    exact hf.cutRecord (by omega)
  | erase r c => exact hf.cutErase
  | configProgram off todo n =>
    refine hf.cutConfig ?_
    cases todo with
    | nil => simp [EngineLaw] at ho ⊢; omega
    | cons a l => simp [EngineLaw] at ho ⊢; omega
  | idle | marks _ _ | flagProgram _ | flagClear | check => exact hf

theorem cutFlash_wf {s : State} (h : s.storeLaw) : s.cutFlash.flash.wf = true := by
  have he := cutEngine_wf (n := s.free) h.2 h.1.engine
  unfold State.cutFlash
  dsimp only
  split
  · rw [Flash.wf_iff] at he ⊢
    exact he.cutErase
  · exact he

/-- The engine's operation, cut, leaves what it does not work on (R155). -/
theorem cutEngine_kept {f : Flash} {op : EngineOp} {n a : Nat} (hf : f.wf = true) (ho : EngineLaw op)
    (ha : op.worksOn a = false) : flashByte (cutEngine f op n).cells a = flashByte f.cells a := by
  rw [Flash.wf_iff] at hf
  cases op with
  | program r off bytes sequence drop =>
    have := regionBase_le r
    simp only [EngineLaw] at ho
    simp only [EngineOp.worksOn, Bool.and_eq_false_iff, decide_eq_false_iff_not] at ha
    exact flashByte_cutRecord hf (by omega) (by omega)
  | erase r c => exact flashByte_cutErase hf ha
  | configProgram off todo n =>
    simp only [EngineOp.worksOn, Bool.and_eq_false_iff, decide_eq_false_iff_not] at ha
    refine flashByte_cutConfig hf ?_ (by omega)
    cases todo with
    | nil => simp [EngineLaw] at ho ⊢; omega
    | cons a l => simp [EngineLaw] at ho ⊢; omega
  | idle | marks _ _ | flagProgram _ | flagClear | check => rfl

/-- What a cut of the engine's work and of a suspended erase leaves (R142, R144, R149, R155, R166). -/
theorem cutFlash_cuts {s : State} (h : s.storeLaw) : CutsFlash s s.cutFlash := by
  have ho := h.1.engine
  have we := cutEngine_wf (n := s.free) h.2 ho
  have hf := (Flash.wf_iff _).mp h.2
  have he := (Flash.wf_iff _).mp we
  have none_cells : s.store.suspended = none → s.cutFlash.flash = cutEngine s.flash s.store.engine s.free :=
    fun hs => by rw [State.cutFlash, hs]
  have some_cells : ∀ x, s.store.suspended = some x → s.cutFlash.flash.cells =
      cutErase (cutEngine s.flash s.store.engine s.free).cells (s.free + 1) x.region :=
    fun x hs => by rw [State.cutFlash, hs]
  have zero : inRing 0 = false := by decide
  refine ⟨fun a ha => ?_, fun hw => ?_, fun r off bytes sequence drop hp hl hx => ?_, fun r hr => ?_,
    fun off segment todo n hp hseg hlen hs => ?_⟩
  · rw [Store.worksOn, Bool.or_eq_false_iff] at ha
    have engine := cutEngine_kept (n := s.free) h.2 ho ha.1
    cases hs : s.store.suspended with
    | none => rw [none_cells hs]; exact engine
    | some x =>
      rw [hs] at ha
      rw [some_cells x hs, flashByte_cutErase he ha.2]
      exact engine
  · have engine : (cutEngine s.flash s.store.engine s.free).nFlags = s.flash.nFlags := by
      rw [Store.worksOnFlags] at hw
      revert hw
      cases s.store.engine <;> simp [cutEngine]
    cases hs : s.store.suspended with
    | none => rw [none_cells hs]; exact engine
    | some x =>
      have : s.cutFlash.flash.nFlags = (cutEngine s.flash s.store.engine s.free).nFlags := by rw [State.cutFlash, hs]
      rw [this]; exact engine
  · rw [hp, EngineLaw] at ho
    have base := regionBase_le r
    have bad := cutRecord_bad (n := s.free) (a := regionBase r + off) (bytes := bytes) hf (by omega) hl
    have cells : (cutEngine s.flash s.store.engine s.free).cells =
        cutRecord s.flash.cells s.free (regionBase r + off) bytes := by rw [hp]; rfl
    change recordGood (flashRead _ (regionBase r + off) _) = false
    cases hs : s.store.suspended with
    | none => rw [none_cells hs, cells]; exact bad
    | some x =>
      have far : ∀ k, regionBase r + off ≤ k → k < regionBase r + off + bytes.length →
          inRegion x.region k = false := fun k h1 h2 => by
        have ne : x.region ≠ r := hx x hs
        rw [inRegion, beq_eq_false_iff_ne, ne_eq]
        intro e
        apply ne
        apply Fin.ext
        rw [← e]
        simp only [regionBase, Config.regionSize] at h1 h2 ⊢
        omega
      rw [some_cells x hs, flashRead_congr fun k h1 h2 => flashByte_cutErase he (far k h1 h2), cells]
      exact bad
  · have spoilt : ∀ (cells : List Host.Cell) (n : Nat), CellsFrom 0 cells →
        s.cutFlash.flash.cells = cutErase cells n r →
        (r ≠ 0 → regionErased s.cutFlash.flash.cells r = false) ∧
        (inRing r = true → flashByte s.cutFlash.flash.cells (r.val * 4096) = 255#8 ∨
          tailDamaged s.cutFlash.flash.cells r = true) ∧
        (r = 0 → endsWithCheck (flashRead s.cutFlash.flash.cells 0 68) = false) := fun cells n hc e => by
      rw [e]
      refine ⟨cutErase_written hc, fun ring => ?_, fun z => by rw [z]; exact cutErase_check hc⟩
      have := cutErase_shows (n := n) hc ring
      rw [showsCutErase, Bool.or_eq_true, beq_iff_eq] at this
      exact this
    rcases hr with ⟨⟨cause, hp⟩, hs⟩ | ⟨x, hs, rfl⟩
    · exact spoilt _ _ hf (by rw [none_cells hs, hp]; rfl)
    · exact spoilt _ _ he (some_cells x hs)
  · have cells : s.cutFlash.flash.cells = cutConfig s.flash.cells s.free off segment := by
      rw [none_cells hs, hp]; rfl
    rw [cells]
    exact cutConfig_bad hf hseg hlen

/-- Blocks at their reset values keep every law, in a part that is in START or stopped. -/
theorem resetBlocks_kept {s : State} {b : Bool} : Kept s (s.cutFlash.resetBlocks b) where
  pending := rfl
  noteLaw := fun _ => NoteLaw.nil
  storeLaw := fun h => ⟨storeLaw_reset, cutFlash_wf h⟩
  rosterLaw := fun _ => rosterLaw_reset _
  pathLaw := fun _ h => by
    simp [State.plays, State.awake, State.resetBlocks] at h
  panelLaw := fun _ => panelLaw_reset _ _
  shockLaw := fun _ => ⟨fun _ => rfl, fun _ => rfl⟩

theorem readStraps_phase (s : State) (c : ResetCause) :
    (s.readStraps c).sys.phase = .start ∨ (s.readStraps c).sys.phase = .strapFault := by
  simp only [State.readStraps]
  split
  · exact .inr rfl
  · exact .inl rfl

theorem asleep {s : State} (h : s.sys.phase = .start ∨ s.sys.phase = .strapFault) : s.awake = false := by
  rcases h with h | h <;> simp [State.awake, h]

theorem restart_kept {s : State} {c : ResetCause} {b : Bool} : Kept s (s.restart c b) := by
  have k : Kept s (s.cutFlash.resetBlocks b) := resetBlocks_kept
  refine ⟨rfl, k.noteLaw, k.storeLaw, k.rosterLaw, fun _ h => ?_, k.panelLaw, k.shockLaw⟩
  rw [State.plays, State.restart, asleep (readStraps_phase _ _)] at h
  cases h

/-- A change of power, straps or reset line ahead of a reset. -/
theorem front_kept {s t u : State} (hp : t.pending = s.pending) (hl : t.link = s.link) (hs : t.store = s.store)
    (hf : t.flash = s.flash) (hr : t.roster = s.roster) (hn : t.panel = s.panel) (hb : t.supply = s.supply)
    (hk : t.shock = s.shock) (k : Kept t u) (hu : u.awake = false) : Kept s u where
  pending := k.pending.trans hp
  noteLaw := fun e => k.noteLaw (hl ▸ e)
  storeLaw := fun e => k.storeLaw ⟨hs ▸ e.1, hf ▸ e.2⟩
  rosterLaw := fun e => k.rosterLaw (hr ▸ e)
  pathLaw := fun _ a => by simp [State.plays, hu] at a
  panelLaw := fun e => k.panelLaw (hn ▸ hb ▸ e)
  shockLaw := fun e => k.shockLaw (hk ▸ e)

theorem execPowerOnReset_keeps (role : Fin 4) (addr : Station) (s : State) :
    Keeps s (execPowerOnReset role addr s) :=
  ⟨_, rfl, front_kept
    (t := { s with
      pins := { s.pins with roleStrap := role, addrStrap := addr }
      sys := { s.sys with powered := true } })
    rfl rfl rfl rfl rfl rfl rfl rfl restart_kept (asleep (readStraps_phase _ _))⟩

theorem execPinReset_keeps (s : State) : Keeps s (execPinReset s) := by
  unfold execPinReset
  dsimp only
  refine ⟨_, rfl, ?_⟩
  split
  · exact front_kept (t := { s with pins := { s.pins with resetLow := false } })
      rfl rfl rfl rfl rfl rfl rfl rfl restart_kept (asleep (readStraps_phase _ _))
  · rename_i hp
    refine front_kept (t := { s with pins := { s.pins with resetLow := false } })
      rfl rfl rfl rfl rfl rfl rfl rfl (Kept.refl _) ?_
    simp [State.awake, State.active, hp]

theorem execResetnFall_keeps (s : State) : Keeps s (execResetnFall s) := by
  unfold execResetnFall
  dsimp only
  refine ⟨_, rfl, ?_⟩
  split
  · exact front_kept (t := { s with pins := { s.pins with resetLow := true } })
      rfl rfl rfl rfl rfl rfl rfl rfl resetBlocks_kept (asleep (.inl rfl))
  · exact front_kept (t := { s with pins := { s.pins with resetLow := true } })
      rfl rfl rfl rfl rfl rfl rfl rfl (Kept.refl _) (by simp [State.awake, State.active])

theorem execAlwaysOnSupplyLoss_keeps (s : State) : Keeps s (execAlwaysOnSupplyLoss s) := by
  unfold execAlwaysOnSupplyLoss
  dsimp only
  have k : Kept s (s.cutFlash.resetBlocks s.bay.path) := resetBlocks_kept
  refine ⟨_, rfl, k.pending, k.noteLaw, k.storeLaw, k.rosterLaw, fun _ a => ?_, k.panelLaw, k.shockLaw⟩
  simp [State.plays, State.awake, State.active] at a

theorem stationReset_kept (s : State) : Kept s s.stationReset := restart_kept

/-! ### The start -/

theorem scanned_law (st : Store) (cells : List Host.Cell) (h : StoreLaw st) : StoreLaw (st.scanned cells) where
  queue := by unfold Store.scanned; exact h.queue
  engine := by unfold Store.scanned; exact h.engine
  write := by unfold Store.scanned; exact h.write

theorem exhausted_does {s t : State} (h : Does s t) : Does s
    (if t.store.newest = some Config.lastSequence then
      (t.withStore fun st => { st with exhausted := true }).setCond .logFull else t) :=
  ite_effect (setCond_effect (withStore_effect h rfl fun k => ⟨k.queue, k.engine, k.write⟩) rfl rfl) h

theorem scan_does {s t : State} (h : Does s t) : Does s t.scan := by
  have opened : Does s (t.withStore fun st => st.scanned t.flash.cells) :=
    withStore_effect h rfl (scanned_law _ _)
  unfold State.scan
  dsimp only
  generalize (t.withStore fun st => st.scanned t.flash.cells) = u at opened ⊢
  exact exhausted_does (readBlank_effect opened rfl)

theorem useConfig_kept (s : State) (c : Configuration) (e : Option ConfigRefusal) : Kept s (s.useConfig c e) where
  pending := rfl
  noteLaw := id
  storeLaw := fun h => ⟨⟨h.1.queue, h.1.engine, h.1.write⟩, h.2⟩
  rosterLaw := id
  pathLaw := id
  panelLaw := fun _ => panelLaw_reset _ _
  shockLaw := id

theorem loadConfig_kept (s : State) : Kept s s.loadConfig := by
  unfold State.loadConfig
  split
  · exact useConfig_kept _ _ _
  · exact (useConfig_kept _ _ _).trans (setCond_effect (p := Parts.all) (Effect.refl _ _) rfl rfl).kept

/-- What the entry to LISTEN keeps, but for the path law of a BAY, which the starting state gives. -/
theorem execEnterListen_keeps (s : State) : Keeps s (execEnterListen s) := by
  unfold execEnterListen
  refine ⟨_, rfl, ?_⟩
  split
  · have k := (loadConfig_kept s).trans (scan_does (Effect.refl _ _)).kept
    generalize s.loadConfig.scan = u at k ⊢
    have e : Does u.enterListen u.enterListen.lineTest := lineTest_effect (Effect.refl _ _) all_parts
    dsimp only
    have front : ∀ v, Does u.enterListen v → (v.plays .bay = true → BayLaw v.bay) → Kept s v :=
      fun v d hb => ⟨d.pending.trans k.pending, fun l => d.noteLaw (k.noteLaw l), fun l => d.storeLaw (k.storeLaw l),
        fun _ => d.rosterLaw (rosterLaw_reset _), fun _ => hb, fun l => d.panelLaw (k.panelLaw l),
        fun l => d.shockLaw (k.shockLaw l)⟩
    have other : ∀ v, Does u.enterListen v → ∀ r, u.enterListen.lineTest.sys.role = r → r ≠ .bay → Kept s v := by
      intro v d r hr hn
      refine front v d fun a => ?_
      simp only [State.plays, Bool.and_eq_true, beq_iff_eq, d.sys] at a
      rw [e.sys] at hr
      exact absurd (hr.symm.trans a.2) hn
    split
    · rename_i hr
      exact other _ (startTest_effect e rfl rfl rfl rfl) _ hr (by decide)
    · have l := startBay_law u.enterListen.lineTest
      have k' := (e.kept)
      refine ⟨e.pending.trans k.pending, fun l => e.noteLaw (k.noteLaw l), fun l => e.storeLaw (k.storeLaw l),
        fun _ => e.rosterLaw (rosterLaw_reset _), fun _ _ => l, fun l => e.panelLaw (k.panelLaw l),
        fun l => e.shockLaw (k.shockLaw l)⟩
    · rename_i hr
      exact other _ e _ hr (by decide)
    · rename_i hr
      exact other _ e _ hr (by decide)
  · exact Kept.refl s

theorem sendSettledOwed_does {s t : State} (h : Does s t) : Does s t.sendSettledOwed := by
  have go : ∀ (l : List SettledNote) (u : State), Does s u → Does s (l.foldl State.queueSettled u) := by
    intro l
    induction l with
    | nil => exact fun _ h => h
    | cons a l ih => exact fun u h => ih _ (queueSettled_effect h rfl rfl)
  exact withShock_effect (go _ _ h) rfl id

theorem roleRunning_does {s t : State} (h : Does s t) : Does s t.roleRunning := by
  unfold State.roleRunning
  split
  · have k : Does s (t.withRecord fun r => { r with epoch := t.store.startCount % 256 }) :=
      withRecord_effect h rfl rfl (.refl _)
    unfold State.baseRunning
    dsimp only
    exact ite_effect k (firstRoster_effect k rfl rfl rfl)
  · exact bayRunning_effect h rfl rfl rfl
  · exact h
  · exact h

theorem enterRunning_kept {s : State} (hs : s.listening = true) : Kept s s.enterRunning where
  pending := rfl
  noteLaw := id
  storeLaw := id
  rosterLaw := id
  pathLaw := fun l a => l (by
    simp only [State.listening, Bool.and_eq_true] at hs
    simp only [State.plays, Bool.and_eq_true] at a
    simp [State.plays, State.awake, hs.1, hs.2, ← a.2, State.enterRunning])
  panelLaw := id
  shockLaw := id

theorem execEnterRunning_keeps (s : State) : Keeps s (execEnterRunning s) := by
  unfold execEnterRunning
  refine ⟨_, rfl, ?_⟩
  split
  · rename_i hs
    have d := attentionTest_effect (sendSettledOwed_does (roleRunning_does
      (queueBeacon_effect (p := Parts.all) (Effect.refl _ s.enterRunning) all_parts rfl))) rfl rfl
    dsimp only
    exact (enterRunning_kept hs).trans
      (hand_effect (ite_effect (setCond_effect d rfl rfl) d) rfl rfl rfl).kept
  · exact Kept.refl s

/-! ### The link -/

theorem refl_does (s : State) : Does s s := Effect.refl _ s

theorem keeps_if {s u : State} {c : Prop} [Decidable c] (hu : Kept s u) :
    Keeps s (.next (if c then u else s)) := keeps_ite hu (Kept.refl s)

theorem execAlertLineChange_keeps (b : Bool) (s : State) : Keeps s (execAlertLineChange b s) := by
  have k : Kept s { s with pins := { s.pins with laOthers := b } } := pins_kept rfl
  refine ⟨_, rfl, ?_⟩
  unfold State.lineChange
  dsimp only
  split
  · split
    · exact k.trans (interruptRemote_effect (refl_does _) all_parts).kept
    · exact k.trans (lineTest_effect (refl_does _) all_parts).kept
  · exact k

theorem refresh_kept {s t : State} (h : Kept s t) (n : Note) (b : Bool) :
    Kept s { t with link := t.link.refresh n b } := by
  unfold Link.refresh
  split
  · exact ⟨h.pending, fun e => (h.noteLaw e).filter _, h.storeLaw, h.rosterLaw, h.pathLaw, h.panelLaw, h.shockLaw⟩
  · exact ⟨h.pending, h.noteLaw, h.storeLaw, h.rosterLaw, h.pathLaw, h.panelLaw, h.shockLaw⟩

theorem load_kept {s t : State} (h : Kept s t) (b : Bool) : Kept s { t with link := t.link.load b } := by
  unfold Link.load
  split
  · exact ⟨h.pending, h.noteLaw, h.storeLaw, h.rosterLaw, h.pathLaw, h.panelLaw, h.shockLaw⟩
  · rename_i n rest hq
    exact ⟨h.pending, fun e => (hq ▸ h.noteLaw e).tail, h.storeLaw, h.rosterLaw, h.pathLaw, h.panelLaw, h.shockLaw⟩

theorem execNoteStart_keeps (s : State) : Keeps s (execNoteStart s) := by
  refine keeps_if ?_
  split
  · split
    · exact Kept.refl s
    · exact refresh_kept (Kept.refl s) _ _
  · exact load_kept (Kept.refl s) _

theorem execNoteWithdraw_keeps (s : State) : Keeps s (execNoteWithdraw s) := by
  refine keeps_if ?_
  split
  · split
    · exact refresh_kept (Kept.refl s) _ _
    · exact Kept.refl s
  · exact Kept.refl s

theorem segSent_conditions (c : Console) (g : SegNote) : (c.segSent g).conditions = c.conditions := by
  unfold Console.segSent
  split
  · split <;> rfl
  · rfl

theorem execNoteSent_keeps (s : State) : Keeps s (execNoteSent s) := by
  refine keeps_if ?_
  split
  · refine (load_kept (Kept.refl s) false).trans ?_
    unfold State.afterSent
    split
    · exact (console_effect (refl_does _) rfl (segSent_conditions _ _)).kept
    · split
      · exact stationReset_kept _
      · exact Kept.refl _
    · exact Kept.refl _
  · exact Kept.refl s

theorem execNoteNotConsumed_keeps (k : Kind) (n : Station) (g : Target) (s : State) :
    Keeps s (execNoteNotConsumed k n g s) :=
  keeps_ite (by
    split
    · exact (hears_effect (refl_does s) all_parts rfl).kept
    · exact Kept.refl s) (receive_effect (refl_does s) all_parts rfl fun _ h => h).kept

theorem execBeaconTimer_keeps (s : State) : Keeps s (execBeaconTimer s) :=
  keeps_if (attentionTest_effect (queueBeacon_effect (refl_does s) all_parts rfl) rfl rfl).kept

theorem execPeerSilent_keeps (k : Station) (s : State) : Keeps s (execPeerSilent k s) :=
  keeps_if (silenceBegins_effect (refl_does s) all_parts rfl).kept

theorem execBeacon_keeps (k : Station) (g : Target) (b : Beacon) (s : State) : Keeps s (execBeacon k g b s) := by
  have hh := heard_effect (k := k) (refl_does s) all_parts rfl
  refine ⟨_, rfl, ?_⟩
  split
  · exact Kept.refl s
  · split
    · exact (setCond_effect (refl_does s) rfl rfl).kept
    · dsimp only
      split
      · exact (hears_effect (refl_does s) all_parts rfl).kept
      · split
        · exact (capture_effect (hears_effect (refl_does s) all_parts rfl) all_parts rfl).kept
        · exact (attend_effect (deliverBeacon_effect (writeBeacon_effect hh rfl) all_parts rfl) all_parts).kept

/-! ### Notes of the stations -/

/-- A note whose delivery keeps every law. -/
theorem receive_keeps {s : State} {kind : Kind} {k : Station} {g : Target} {f : State → State}
    (hf : ∀ u, Does s u → Does s (f u)) : Keeps s (.next (s.receive kind k g f)) :=
  (receive_effect (refl_does s) all_parts rfl hf).keeps

theorem execFall_keeps (k : Station) (g : Target) (a b : Nat) (s : State) : Keeps s (execFall k g a b s) :=
  receive_keeps fun _ h => takeFall_effect h all_parts

theorem execImpact_keeps (k : Station) (g : Target) (a b c : Nat) (d : Axis) (s : State) :
    Keeps s (execImpact k g a b c d s) := receive_keeps fun _ h => takeImpact_effect h all_parts

theorem execLost_keeps (k : Station) (g : Target) (s : State) : Keeps s (execLost k g s) :=
  receive_keeps fun _ h => rosterLost_effect h rfl rfl rfl rfl rfl

theorem execFault_keeps (k : Station) (g : Target) (c : FaultCause) (s : State) : Keeps s (execFault k g c s) :=
  receive_keeps fun _ h => rosterFault_effect h rfl rfl rfl rfl rfl

theorem execCalm_keeps (k : Station) (g : Target) (a : Nat) (b : CloseReason) (c : Nat) (d : List Station)
    (s : State) : Keeps s (execCalm k g a b c d s) :=
  keeps_ite (noise_effect (refl_does s) all_parts).kept
    (receive_effect (refl_does s) all_parts rfl fun _ h => takeCalm_effect h all_parts).kept

theorem execRoster_keeps (k : Station) (g : Target) (l : List Byte) (s : State) : Keeps s (execRoster k g l s) := by
  unfold execRoster
  split
  · exact (noise_effect (refl_does s) all_parts).keeps
  · exact receive_keeps fun _ h => takeImage_effect h all_parts rfl

theorem execLetGo_keeps (k : Station) (g : Target) (c : LetGoKind) (s : State) : Keeps s (execLetGo k g c s) :=
  receive_keeps fun _ h => ite_effect (bayLetGo_effect h rfl rfl rfl rfl rfl) h

theorem execReleaseNo_keeps (k : Station) (g : Target) (c : ReleaseReason) (s : State) :
    Keeps s (execReleaseNo k g c s) := receive_keeps fun _ h => ite_effect (bayReleaseNo_effect h rfl) h

theorem execReleaseWait_keeps (k : Station) (g : Target) (n : Nat) (s : State) :
    Keeps s (execReleaseWait k g n s) := receive_keeps fun _ h => ite_effect (withBay_effect h rfl id) h

theorem execTaken_keeps (k : Station) (g : Target) (n : Nat) (s : State) : Keeps s (execTaken k g n s) :=
  receive_keeps fun _ h => rosterTaken_effect h rfl rfl rfl rfl rfl

theorem execDrained_keeps (k : Station) (g : Target) (n : Nat) (s : State) : Keeps s (execDrained k g n s) :=
  receive_keeps fun _ h => rosterDrained_effect h rfl rfl rfl rfl rfl

theorem execGone_keeps (k : Station) (g : Target) (s : State) : Keeps s (execGone k g s) :=
  receive_keeps fun _ h => rosterGone_effect h rfl rfl rfl rfl rfl

theorem execReleaseAsk_keeps (k : Station) (g : Target) (o : Origin) (s : State) :
    Keeps s (execReleaseAsk k g o s) := receive_keeps fun _ h => rosterAsk_effect h rfl rfl rfl rfl rfl

theorem execSettled_keeps (k : Station) (g : Target) (b : SettledNote) (s : State) :
    Keeps s (execSettled k g b s) := receive_keeps fun _ h => takeSettled_effect h all_parts

/-! ### Lines, samples and timers of a BASE and a BAY -/

theorem execAdapterChange_keeps (b : Bool) (s : State) : Keeps s (execAdapterChange b s) := by
  have k : Kept s { s with pins := { s.pins with adapter := b } } := pins_kept rfl
  exact keeps_ite (Kept.refl s) (k.trans (rosterAdapter_effect (refl_does _) rfl rfl rfl rfl rfl).kept)

theorem execPublishTimer_keeps (n : Nat) (s : State) : Keeps s (execPublishTimer n s) := by
  have k : Kept s { s with pins := { s.pins with load := n } } := pins_kept rfl
  exact (k.trans (rosterPublish_effect (refl_does _) rfl rfl rfl).kept).keeps

theorem execHandoverTimer_keeps (s : State) : Keeps s (execHandoverTimer s) :=
  (rosterTimeout_effect (refl_does s) rfl rfl rfl rfl rfl).keeps

theorem execPackSample_keeps (v c : Nat) (t : Int) (s : State) : Keeps s (execPackSample v c t s) :=
  keeps_if (takeSample_effect (refl_does s) rfl rfl rfl rfl rfl rfl).kept

theorem execRailSample_keeps (n : Nat) (s : State) : Keeps s (execRailSample n s) := by
  refine keeps_if ?_
  dsimp only
  have k (r : Nat) := withBay_effect (f := fun b => { b with railRun := r }) (refl_does s) rfl id
  exact (ite_effect (rescueClose_effect (k _) rfl rfl rfl rfl) (k _)).kept

theorem execRescueClose_keeps (s : State) : Keeps s (execRescueClose s) :=
  keeps_if (rescueClose_effect (withBay_effect (refl_does s) rfl id) rfl rfl rfl rfl).kept

theorem execChargeReport_keeps (n : Nat) (s : State) : Keeps s (execChargeReport n s) := by
  have k : Kept s { s with pins := { s.pins with packCharge := n } } := pins_kept rfl
  exact keeps_ite (k.trans (withBay_effect (refl_does _) rfl id).kept) k

theorem execPresentRise_keeps (n : Nat) (s : State) : Keeps s (execPresentRise n s) := by
  refine keeps_ite (Kept.refl s) ?_
  dsimp only
  have k : Kept s { s with pins := { s.pins with present := true, packCharge := n } } := pins_kept rfl
  split
  · refine k.trans (withBay_effect (refl_does _) rfl fun l => ?_).kept
    split
    · rfl
    · exact l
  · exact k

theorem presentFalls_does {s t : State} (h : Does s t) : Does s t.presentFalls := by
  unfold State.presentFalls
  have pulled : Does s (((t.withBay fun b => b.go .empty).handPack .pulled t.bay.state).goEmpty) :=
    goEmpty_effect (handPack_effect (withBay_effect h rfl (by intro _; rfl)) rfl rfl rfl) rfl rfl rfl rfl rfl
  split <;> first
    | exact h
    | exact goEmpty_effect h rfl rfl rfl rfl rfl
    | exact goLost_effect h rfl rfl rfl rfl rfl
    | exact pulled

theorem execPresentFall_keeps (s : State) : Keeps s (execPresentFall s) := by
  refine keeps_if ?_
  dsimp only
  have k : Kept s { s with pins := { s.pins with present := false } } := pins_kept rfl
  split
  · exact k.trans (withBay_effect (presentFalls_does (refl_does _)) rfl id).kept
  · exact k

theorem execLeverRise_keeps (s : State) : Keeps s (execLeverRise s) := by
  refine keeps_ite (Kept.refl s) ?_
  dsimp only
  have k : Kept s { s with pins := { s.pins with lever := true } } := pins_kept rfl
  split
  · exact k.trans (sendAsk_effect (refl_does _) rfl rfl rfl).kept
  · exact k

theorem execLeverFall_keeps (s : State) : Keeps s (execLeverFall s) := by
  have k : Kept s { s with pins := { s.pins with lever := false } } := pins_kept rfl
  exact keeps_ite (k.trans (withBay_effect (refl_does _) rfl id).kept) k

theorem execPackCheckEnd_keeps (s : State) : Keeps s (execPackCheckEnd s) :=
  keeps_if (passCheck_effect (refl_does s) rfl rfl rfl rfl rfl).kept

theorem execRescueGraceEnd_keeps (s : State) : Keeps s (execRescueGraceEnd s) :=
  keeps_if (withBay_effect (refl_does s) rfl id).kept

theorem execFreedTimer_keeps (s : State) : Keeps s (execFreedTimer s) :=
  keeps_if (seat_effect (refl_does s) rfl).kept

theorem execLostTimer_keeps (s : State) : Keeps s (execLostTimer s) :=
  keeps_if (ite_effect (seat_effect (refl_does s) rfl) (goEmpty_effect (refl_does s) rfl rfl rfl rfl rfl)).kept

theorem execCoolingTimer_keeps (s : State) : Keeps s (execCoolingTimer s) :=
  keeps_if (seat_effect (refl_does s) rfl).kept

theorem execAnswerTimer_keeps (s : State) : Keeps s (execAnswerTimer s) :=
  keeps_if (refuseAsk_effect (refl_does s) rfl).kept

theorem execReAskDelayTimer_keeps (s : State) : Keeps s (execReAskDelayTimer s) := by
  have k := withBay_effect (f := fun b => { b with reAskDelay := none, reAsk := false }) (refl_does s) rfl id
  exact keeps_if (ite_effect (sendAsk_effect k rfl rfl rfl) k).kept

theorem execRefusedLampTimer_keeps (s : State) : Keeps s (execRefusedLampTimer s) :=
  keeps_if (withBay_effect (refl_does s) rfl id).kept

/-! ### The panel -/

theorem execAmbientReading_keeps (n : Nat) (s : State) : Keeps s (execAmbientReading n s) :=
  keeps_if (readAmbient_effect (refl_does s) rfl rfl rfl rfl).kept

theorem execRampTimer_keeps (s : State) : Keeps s (execRampTimer s) :=
  keeps_if (rampStep_effect (refl_does s) rfl rfl rfl rfl).kept

theorem execOffTimer_keeps (s : State) : Keeps s (execOffTimer s) :=
  keeps_if (panelEvent_effect (refl_does s) rfl rfl rfl rfl rfl).kept

theorem execHeadroomReport_keeps (z : ZoneId) (b : Bool) (s : State) : Keeps s (execHeadroomReport z b s) := by
  have k : Kept s { s with pins := { s.pins with headroomLow := s.pins.headroomLow.set z b } } := pins_kept rfl
  exact keeps_ite (k.trans (settlePanel_effect (refl_does _) rfl rfl rfl rfl).kept) k

theorem execStringTestEnd_keeps (v : Vector Measure 6) (s : State) : Keeps s (execStringTestEnd v s) := by
  refine keeps_if ?_
  split
  · exact (completeTest_effect (refl_does s) rfl rfl rfl rfl rfl rfl).kept
  · exact Kept.refl s

/-! ### Motion -/

theorem execMotionSample_keeps (n : Nat) (d : Axis) (s : State) : Keeps s (execMotionSample n d s) :=
  keeps_if (takeMotion_effect (refl_does s) all_parts).kept

theorem execOwnFall_keeps (s : State) : Keeps s (execOwnFall s) := by
  refine keeps_if ?_
  unfold State.runFalls
  split <;> first
    | exact (ownFall_effect (refl_does s) all_parts).kept
    | exact (interruptOwn_effect (refl_does s) all_parts).kept
    | exact Kept.refl s

theorem execImpactEnd_keeps (s : State) : Keeps s (execImpactEnd s) := by
  refine ⟨_, rfl, ?_⟩
  split
  · rename_i hs
    have hst : s.shock.state = .impact := by simp only [Bool.and_eq_true, beq_iff_eq] at hs; exact hs.2
    exact (enterSettling_effect (withShock_effect (refl_does s) rfl id) all_parts (by simp [hst])).kept
  · exact Kept.refl s

theorem execFallWindowTimer_keeps (s : State) : Keeps s (execFallWindowTimer s) :=
  keeps_if (windowEnds_effect (refl_does s) all_parts).kept

theorem execEnterChecking_keeps (s : State) : Keeps s (execEnterChecking s) := by
  refine ⟨_, rfl, ?_⟩
  split
  · rename_i hs
    have hst : s.shock.state = .settling := by simp only [Bool.and_eq_true, beq_iff_eq] at hs; exact hs.2
    exact (enterChecking_effect (withShock_effect (refl_does s) rfl id) all_parts (by simp [hst])).kept
  · exact Kept.refl s

theorem execCheckingTimer_keeps (s : State) : Keeps s (execCheckingTimer s) :=
  keeps_if (checkingEnds_effect (refl_does s) all_parts).kept

theorem execClosingTimer_keeps (s : State) : Keeps s (execClosingTimer s) :=
  (closingEnds_effect (refl_does s) all_parts).keeps

/-! ### The console -/

theorem receiveConsole_keeps {s : State} {kind : Kind} {k : Station} {g : Target} {f : State → State}
    (hf : ∀ u, Does s u → Does s (f u)) : Keeps s (.next (s.receiveConsole kind k g f)) :=
  (receiveConsole_effect (refl_does s) all_parts rfl hf).keeps

theorem answerAsk_does {s t : State} (h : Does s t) (o : Field Topic) (i k : Nat) : Does s (t.answerAsk o i k) := by
  unfold State.answerAsk
  dsimp only
  split
  · exact sendTo_effect h rfl rfl
  · exact ite_effect (console_effect h rfl (by rfl)) (replyIdentity_effect h rfl rfl)
  · exact sendTo_effect h rfl rfl
  · exact h

theorem hearBadField_does (s : State) (b : BadField) (k : Kind) (n : Station) (g : Target) :
    Does s (s.hearBadField b k n g) := by
  unfold State.hearBadField
  split
  · exact refl_does s
  · exact receiveConsole_effect (refl_does s) all_parts rfl fun _ h => answerAsk_does h _ _ _
  · exact receiveConsole_effect (refl_does s) all_parts rfl fun _ h => storeDone_effect h rfl rfl
  · exact ite_effect (refl_does s) (noise_effect (refl_does s) all_parts)

theorem execNoteGarbled_keeps (l : List Byte) (b : BadField) (s : State) : Keeps s (execNoteGarbled l b s) := by
  refine keeps_ite ?_ (noise_effect (refl_does s) all_parts).kept
  split
  · exact (hearBadField_does _ _ _ _ _).kept
  · exact Kept.refl s

theorem hearAsk_keeps (s : State) (o : Topic) (k : Station) (g : Target) (i n : Nat) :
    Keeps s (.next (s.hearAsk o k g i n)) := receiveConsole_keeps fun _ h => answerAsk_does h _ _ _

theorem execSetLevel_keeps (k : Station) (g : Target) (a : Field LevelGroup) (b : Nat) (c : Field LevelMode)
    (s : State) : Keeps s (execSetLevel k g a b c s) := receiveConsole_keeps fun _ h => takeLevel_effect h all_parts

theorem execReleaseBay_keeps (k : Station) (g : Target) (s : State) : Keeps s (execReleaseBay k g s) :=
  receiveConsole_keeps fun _ h => takeRelease_effect h all_parts

theorem execTestStrings_keeps (k : Station) (g : Target) (s : State) : Keeps s (execTestStrings k g s) :=
  receiveConsole_keeps fun _ h => takeTest_effect h all_parts

theorem execResetStation_keeps (k : Station) (g : Target) (s : State) : Keeps s (execResetStation k g s) := by
  have hh := heard_effect (k := k) (refl_does s) all_parts rfl
  refine ⟨_, rfl, ?_⟩
  unfold State.receiveConsole State.receive
  split
  · exact Kept.refl s
  · dsimp only
    split
    · exact (hears_effect (refl_does s) all_parts rfl).kept
    · split
      · refine Kept.trans ?_ (attend_effect (refl_does _) all_parts).kept
        split
        · unfold State.takeReset
          split
          · exact hh.kept
          · split
            · exact (refuse_effect hh rfl rfl).kept
            · split
              · exact (console_effect (send_effect (n := resetReply) hh rfl rfl) rfl (by rfl)).kept
              · exact (send_effect hh rfl rfl).kept.trans (stationReset_kept _)
        · exact hh.kept
      · exact (capture_effect (hears_effect (refl_does s) all_parts rfl) all_parts rfl).kept

theorem execResetReplyRequeue_keeps (s : State) : Keeps s (execResetReplyRequeue s) :=
  keeps_if (console_effect (send_effect (n := resetReply) (refl_does s) rfl rfl) rfl (by rfl)).kept

theorem clearConds_does {s t : State} (h : Does s t) (c : Bits16) : Does s (t.clearConds c) := by
  have k : Does s { t with console := { t.console with conditions := t.console.conditions &&& ~~~c } } :=
    clear_effect h rfl rfl
  unfold State.clearConds
  exact ite_effect (link_effect k rfl rfl rfl) k

theorem execAttentionResume_keeps (k : Station) (g : Target) (c : Bits16) (s : State) :
    Keeps s (execAttentionResume k g c s) :=
  receiveConsole_keeps fun _ h =>
    attentionTest_effect (reply_effect (console_effect (clearConds_does h c) rfl (by rfl)) rfl rfl) rfl rfl

theorem execSetMask_keeps (k : Station) (g : Target) (c : Bits16) (s : State) : Keeps s (execSetMask k g c s) :=
  receiveConsole_keeps fun _ h => attentionTest_effect (reply_effect (console_effect h rfl (by rfl)) rfl rfl) rfl rfl

theorem execReadLog_keeps (k : Station) (g : Target) (n : Nat) (a : Field LogStart) (b : Field LogEnd)
    (c : Field Bool) (s : State) : Keeps s (execReadLog k g n a b c s) :=
  receiveConsole_keeps fun _ h => by
    unfold State.takeRead
    split
    · exact ite_effect (refuse_effect h rfl rfl) (ite_effect (refuse_effect h rfl rfl)
        (ite_effect (refuse_effect h rfl rfl) (console_effect h rfl (by rfl))))
    · exact refuse_effect h rfl rfl

theorem execStopStream_keeps (k : Station) (g : Target) (n : Nat) (s : State) : Keeps s (execStopStream k g n s) :=
  receiveConsole_keeps fun _ h => by
    unfold State.takeStop
    split
    · exact ite_effect (cutStream_effect h rfl) (refuse_effect h rfl rfl)
    · exact refuse_effect h rfl rfl

theorem execStreamAdvance_keeps (s : State) : Keeps s (execStreamAdvance s) := by
  refine keeps_if ?_
  split
  · dsimp only
    exact (ite_effect (refl_does s)
      (ite_effect (handSeg_effect (refl_does s) all_parts) (setStream_effect (refl_does s) rfl))).kept
  · exact Kept.refl s

theorem execStreamEndQueue_keeps (s : State) : Keeps s (execStreamEndQueue s) := by
  refine keeps_if ?_
  split
  · exact (sendTo_effect (console_effect (refl_does s) rfl (by rfl)) rfl rfl).kept
  · split
    · exact (attentionTest_effect (sendTo_effect (console_effect (refl_does s) rfl (by rfl)) rfl rfl) rfl rfl).kept
    · exact Kept.refl s
  · exact Kept.refl s

/-! ### Store operations -/

theorem takeOp_keeps {s : State} {kind : Kind} {k : Station} {g : Target} {o : StoreOp} :
    Keeps s (.next (s.receiveConsole kind k g fun t => t.takeOp o)) :=
  receiveConsole_keeps fun _ h => takeOp_effect h all_parts

theorem execProtectV_keeps (k : Station) (g : Target) (r : Nat) (v : Field Bool) (s : State) :
    Keeps s (execProtectV k g r v s) :=
  receiveConsole_keeps fun _ h => by
    split
    · exact takeOp_effect h all_parts
    · exact ite_effect (storeDone_effect h rfl rfl)
        (ite_effect (storeDone_effect h rfl rfl) (storeDone_effect h rfl rfl))

theorem execWriteConfigStart_keeps (k : Station) (g : Target) (n : Nat) (s : State) :
    Keeps s (execWriteConfigStart k g n s) := receiveConsole_keeps fun _ h => startWrite_effect h all_parts

theorem execWriteConfigSegment_keeps (k : Station) (g : Target) (n : Nat) (l : List Byte) (s : State) :
    Keeps s (execWriteConfigSegment k g n l s) := receiveConsole_keeps fun _ h => segmentWrite_effect h all_parts

theorem execWriteConfigFinish_keeps (k : Station) (g : Target) (s : State) :
    Keeps s (execWriteConfigFinish k g s) := receiveConsole_keeps fun _ h => finishWrite_effect h all_parts

theorem execWriteTimer_keeps (s : State) : Keeps s (execWriteTimer s) :=
  keeps_if (endWrite_effect (refl_does s) all_parts).kept

/-! ### The ends of engine operations -/

theorem setCells_does {s t : State} {cells : List Host.Cell} (h : Does s t)
    (hw : t.storeLaw → CellsFrom 0 cells) : Does s (t.setCells cells) :=
  setCells_effect h rfl fun l => (Flash.wf_iff _).mpr (hw l)

theorem exhaust_does {s t : State} (h : Does s t) (n : Nat) : Does s (t.exhaust n) := by
  unfold State.exhaust
  dsimp only
  have k := withStore_effect (f := fun st => { st with exhausted := true }) h rfl
    fun l => ⟨l.queue, l.engine, l.write⟩
  exact ite_effect (ite_effect k (setCond_effect k rfl rfl)) h

theorem execRecordProgramDone_keeps (s : State) : Keeps s (execRecordProgramDone s) := by
  refine keeps_if ?_
  split
  · rename_i r off bytes sequence drop he
    refine (engineFree_effect (exhaust_does (withStore_effect (setCells_does (refl_does s) fun l => ?_) rfl
      fun k => ⟨k.queue, k.engine, k.write⟩) _) rfl rfl rfl).kept
    have := l.1.engine
    rw [he] at this
    simp only [EngineLaw] at this
    have hr := regionBase_le r
    exact ((Flash.wf_iff _).mp l.2).programAll (by omega)
  · exact Kept.refl s

theorem erased_law {st : Store} (h : StoreLaw st) (r : Region) (c : EraseCause) :
    StoreLaw { st.erased r c with engine := .idle, remaining := 0 } := by
  unfold Store.erased
  dsimp only
  constructor <;> (repeat' split) <;> first
    | exact h.queue
    | exact trivial
    | exact h.write

theorem execRegionEraseDone_keeps (s : State) : Keeps s (execRegionEraseDone s) := by
  refine keeps_if ?_
  split
  · rename_i r c _
    have k := withStore_effect (f := fun st => { st.erased r c with engine := .idle, remaining := 0 })
      (setCells_does (cells := flashErase s.flash.cells r) (refl_does s)
        fun l => ((Flash.wf_iff _).mp l.2).filter _) rfl fun l => erased_law l r c
    dsimp only
    exact (serveAsks_effect (engineNext_effect (ite_effect (ringRetry_effect (finishOp_effect k rfl rfl rfl) rfl) k)
      rfl rfl rfl) rfl rfl).kept
  · exact Kept.refl s

theorem execCollectMarkDone_keeps (s : State) : Keeps s (execCollectMarkDone s) := by
  refine ⟨_, rfl, ?_⟩
  split
  · split
    · rename_i a todo marked he
      have k : Does s (s.mark a) := by
        have c : Does s (s.setCells (flashProgram s.flash.cells a 127#8)) := setCells_does (refl_does s) fun l => by
          have := l.1.engine
          rw [he] at this
          exact ((Flash.wf_iff _).mp l.2).set (this a List.mem_cons_self) (Nat.zero_le _)
        unfold State.mark
        exact withStore_effect c rfl fun k => ⟨k.queue, k.engine, k.write⟩
      dsimp only
      split
      · exact (engineFree_effect (ringRetry_effect (finishOp_effect k rfl rfl rfl) rfl) rfl rfl rfl).kept
      · refine (withStore_effect k rfl fun l => ⟨l.queue, ?_, l.write⟩).kept
        have e : (s.mark a).store.engine = s.store.engine := rfl
        have := l.engine
        rw [e, he] at this
        exact fun b hb => this b (List.mem_cons_of_mem _ hb)
    · exact Kept.refl s
  · exact Kept.refl s

theorem flags_does {s t : State} (h : Does s t) (n : Bits16) : Does s { t with flash := { t.flash with nFlags := n } } :=
  { h with
    flash := fun e => absurd e (by decide)
    storeLaw := fun e => ⟨(h.storeLaw e).1, (h.storeLaw e).2⟩ }

theorem execFlagProgramDone_keeps (s : State) : Keeps s (execFlagProgramDone s) := by
  refine keeps_if ?_
  split
  · exact (engineFree_effect (retryIfProtectionChanged_effect (finishOp_effect (flags_does (refl_does s) _)
      rfl rfl rfl) rfl) rfl rfl rfl).kept
  · exact Kept.refl s

theorem execFlagClearDone_keeps (s : State) : Keeps s (execFlagClearDone s) := by
  refine keeps_if ?_
  split
  · exact (engineFree_effect (retryIfProtectionChanged_effect (finishOp_effect (flags_does (refl_does s) _)
      rfl rfl rfl) rfl) rfl rfl rfl).kept
  · exact Kept.refl s

theorem execConfigProgramDone_keeps (s : State) : Keeps s (execConfigProgramDone s) := by
  refine ⟨_, rfl, ?_⟩
  split
  · split
    · rename_i off seg todo programmed he
      have k : Does s (s.setCells (flashProgramAll s.flash.cells off seg)) :=
        setCells_does (refl_does s) fun l => by
          have := l.1.engine
          rw [he] at this
          simp [EngineLaw] at this
          exact ((Flash.wf_iff _).mp l.2).programAll (by omega)
      dsimp only
      split
      · refine (engineFree_effect (withStore_effect (finishOp_effect k rfl rfl rfl) rfl fun l => ?_) rfl rfl rfl).kept
        exact ⟨l.queue, l.engine, trivial⟩
      · refine (withStore_effect k rfl fun l => ⟨l.queue, ?_, l.write⟩).kept
        have := l.engine
        rw [show (s.setCells (flashProgramAll s.flash.cells off seg)).store.engine = s.store.engine from rfl, he]
          at this
        simp [EngineLaw] at this ⊢
        omega
    · exact Kept.refl s
  · exact Kept.refl s

theorem execStoreCheckDone_keeps (s : State) : Keeps s (execStoreCheckDone s) := by
  refine keeps_if ?_
  split
  · exact (engineFree_effect (finishOp_effect (withStore_effect (refl_does s) rfl
      fun l => ⟨l.queue, l.engine, l.write⟩) rfl rfl rfl) rfl rfl rfl).kept
  · exact Kept.refl s

theorem cut_does {s t : State} {cells : List Host.Cell} (h : Does s t) (hw : t.storeLaw → CellsFrom 0 cells) (n : Nat) :
    Does s { t with flash := { t.flash with cells := cells }, free := n } :=
  { setCells_does h hw with free := fun e => absurd e (by decide) }

theorem abandonErase_does {s t : State} (h : Does s t) (r : Region) : Does s (t.abandonErase r) := by
  have c := fun n => cut_does (cells := cutErase t.flash.cells t.free r) h
    (fun l => ((Flash.wf_iff _).mp l.2).cutErase) n
  unfold State.abandonErase
  dsimp only
  exact withStore_effect (finishOp_effect (c _) rfl rfl rfl) rfl fun l => ⟨l.queue, l.engine, l.write⟩

theorem abandonWrite_does {s t : State} (h : Does s t) : Does s t.abandonWrite := by
  unfold State.abandonWrite
  split
  · rename_i off todo programmed he
    refine engineFree_effect (endWrite_effect (cut_does h (fun l => ?_) _) all_parts) rfl rfl rfl
    have := l.1.engine
    rw [he] at this
    refine ((Flash.wf_iff _).mp l.2).cutConfig ?_
    cases todo with
    | nil => simp [EngineLaw] at this ⊢; omega
    | cons a rest => simp [EngineLaw] at this ⊢; omega
  · exact opArrived_effect (endWrite_effect h all_parts) rfl rfl rfl

theorem holdFalls_does {s t : State} (h : Does s t) : Does s t.holdFalls := by
  unfold State.holdFalls
  split
  · exact abandonWrite_does h
  · split
    · exact ite_effect (serveAsks_effect (engineFree_effect (abandonErase_does h _) rfl rfl rfl) rfl rfl) h
    · exact ite_effect (serveAsks_effect (abandonErase_does (withStore_effect h rfl
        fun l => ⟨l.queue, l.engine, l.write⟩) _) rfl rfl) h
    · exact h

theorem execHoldChange_keeps (b : Bool) (s : State) : Keeps s (execHoldChange b s) := by
  have k : Kept s { s with pins := { s.pins with hold := b } } := pins_kept rfl
  exact keeps_ite (k.trans (holdFalls_does (refl_does _)).kept) k

/-! ### The tick -/

theorem elapse_kept (s : State) : Kept s s.elapse where
  pending := rfl
  noteLaw := id
  storeLaw := fun l => ⟨⟨l.1.queue, l.1.engine, l.1.write⟩, l.2⟩
  rosterLaw := fun l => ⟨l.entries, l.ascending, l.waiting, l.leaving, by
    have := l.timer
    simp only [State.elapse]
    cases hh : s.roster.handoverTimer <;> simpa [hh, ticked, RosterUnit.timed] using this⟩
  pathLaw := id
  panelLaw := fun l => ⟨l.below, fun e z => l.held (by simpa [State.elapse] using e) z⟩
  shockLaw := id

end Sys2Proof.Machine
end

