-- ==== Sys2Proof/Laws/Claims.lean ====
section
/-! SUPPORT. From effects to the words of the claims: what an operation that only tells leaves, and what the delivery of
a note that is admitted is. -/

namespace Sys2Proof.Machine

variable {s t : State}

/-- The Link Interface with its rest, its queue and its drive of LA known. -/
theorem Link.eq_of_rest {l m : Link} (h : l.rest = m.rest) (hd : l.laDrive = m.laDrive) :
    l = { m with queue := l.queue } := by
  cases l; cases m
  simp only [Link.rest, Link.mk.injEq] at h hd ⊢
  simp [h, hd]

/-- States with the same fields are the same. -/
theorem State.eq_of_fields (h1 : t.pending = s.pending) (h2 : t.sys = s.sys) (h3 : t.pins = s.pins)
    (h4 : t.config = s.config) (h5 : t.link = s.link) (h6 : t.roster = s.roster) (h7 : t.image = s.image)
    (h8 : t.bay = s.bay) (h9 : t.panel = s.panel) (h10 : t.supply = s.supply) (h11 : t.shock = s.shock)
    (h12 : t.coord = s.coord) (h13 : t.store = s.store) (h14 : t.flash = s.flash) (h15 : t.console = s.console)
    (h16 : t.free = s.free) : t = s := by
  cases s; cases t
  cases h1; cases h2; cases h3; cases h4; cases h5; cases h6; cases h7; cases h8; cases h9; cases h10; cases h11
  cases h12; cases h13; cases h14; cases h15; cases h16
  rfl

/-- An effect on the outgoing queue, the Console Service and the Record Store alone. -/
theorem Effect.records (h : Effect { queue := true, console := true, store := true } s t) :
    t = { s with link := { s.link with queue := t.link.queue }, console := t.console, store := t.store } :=
  State.eq_of_fields h.pending h.sys h.pins h.config (Link.eq_of_rest (h.link rfl) (h.line rfl)) (h.roster rfl)
    (h.image rfl) (h.bay rfl) (h.panel rfl) (h.supply rfl) (h.shock rfl) (h.coord rfl) rfl (h.flash rfl) rfl
    (h.free rfl)

theorem Effect.tellsAndRecords (h : Effect { queue := true, console := true, store := true } s t) :
    TellsAndRecords s t := ⟨h.records, h.conds rfl⟩

/-- An effect on the outgoing queue and the Console Service alone. -/
theorem Effect.tells (h : Effect { queue := true, console := true } s t) : Tells s t :=
  ⟨State.eq_of_fields h.pending h.sys h.pins h.config (Link.eq_of_rest (h.link rfl) (h.line rfl)) (h.roster rfl)
    (h.image rfl) (h.bay rfl) (h.panel rfl) (h.supply rfl) (h.shock rfl) (h.coord rfl) (h.store rfl) (h.flash rfl) rfl
    (h.free rfl), h.conds rfl⟩

theorem Tells.refl (s : State) : Tells s s := ⟨rfl, fun _ h => h⟩

/-- The delivery of a note that is admitted. -/
theorem receive_admitted {kind : Kind} {k : Station} {g : Target} {f : State → State} (h : s.admits kind k g = true) :
    s.receive kind k g f = s.attend k (f (s.heard k)) := by
  simp only [State.admits, Bool.and_eq_true, bne_iff_ne, ne_eq, Option.isNone_iff_eq_none] at h
  obtain ⟨⟨⟨h1, h2⟩, h3⟩, h4⟩ := h
  simp [State.receive, h1, h2, h3, h4]

/-- The console's silence is told at once, so its notes leave nothing to attend to. -/
@[simp] theorem attend_console (s t : State) : s.attend 0 t = t := by simp [State.attend]

/-- A note of a console kind that is admitted comes from station 0 (R184). -/
theorem admits_console {kind : Kind} {k : Station} {g : Target} (hk : consoleKind kind = true)
    (h : s.admits kind k g = true) : k = 0 := by
  simp only [State.admits, Bool.and_eq_true, Option.isNone_iff_eq_none] at h
  have h := h.2
  unfold State.violation at h
  split at h
  · cases h
  · split at h
    · cases h
    · rename_i hn
      simp only [Bool.or_eq_true, Bool.and_eq_true, hk, bne_iff_ne, true_and, not_or, Decidable.not_not] at hn
      exact hn.2

/-- The delivery of a console note that is admitted. -/
theorem receiveConsole_admitted {kind : Kind} {k : Station} {g : Target} {f : State → State}
    (hk : consoleKind kind = true) (h : s.admitsConsole kind k g = true) (hr : (s.heard k).running = true) :
    s.receiveConsole kind k g f = f (s.heard k) := by
  simp only [State.admitsConsole, Bool.and_eq_true] at h
  rw [State.receiveConsole, receive_admitted h.1, if_pos hr, admits_console hk h.1, attend_console]

end Sys2Proof.Machine
end

