-- ==== Sys2Proof/Laws/Fields.lean ====
section
/-! SUPPORT. The fields that sending a note, setting a condition and handing over a record leave alone, one lemma each,
from the effect of the operation. -/

namespace Sys2Proof.Machine

/-! ### The fields of the Link Interface that an equal rest gives -/

section Rest
variable {l m : Link} (h : l.rest = m.rest)
include h

theorem rest_peers : l.peers = m.peers := by have := congrArg Link.peers h; exact this
theorem rest_deferred : l.deferred = m.deferred := by have := congrArg Link.deferred h; exact this
theorem rest_buffer : l.buffer = m.buffer := by have := congrArg Link.buffer h; exact this
theorem rest_beaconTimer : l.beaconTimer = m.beaconTimer := by have := congrArg Link.beaconTimer h; exact this
theorem rest_capture : l.capture = m.capture := by have := congrArg Link.capture h; exact this
theorem rest_violations : l.violations = m.violations := by have := congrArg Link.violations h; exact this
theorem rest_overflow : l.overflow = m.overflow := by have := congrArg Link.overflow h; exact this

end Rest

/-! ### `attentionTest` -/

theorem attentionTest_alone (s : State) : Effect { queue := true, console := true } s (s.attentionTest) :=
  attentionTest_effect (Effect.refl _ s) rfl rfl

@[simp] theorem attentionTest_pending (s : State) : (s.attentionTest).pending = s.pending :=
  (attentionTest_alone s).pending
@[simp] theorem attentionTest_sys (s : State) : (s.attentionTest).sys = s.sys := (attentionTest_alone s).sys
@[simp] theorem attentionTest_pins (s : State) : (s.attentionTest).pins = s.pins := (attentionTest_alone s).pins
@[simp] theorem attentionTest_config (s : State) : (s.attentionTest).config = s.config :=
  (attentionTest_alone s).config
@[simp] theorem attentionTest_roster (s : State) : (s.attentionTest).roster = s.roster :=
  (attentionTest_alone s).roster rfl
@[simp] theorem attentionTest_image (s : State) : (s.attentionTest).image = s.image :=
  (attentionTest_alone s).image rfl
@[simp] theorem attentionTest_bay (s : State) : (s.attentionTest).bay = s.bay := (attentionTest_alone s).bay rfl
@[simp] theorem attentionTest_panel (s : State) : (s.attentionTest).panel = s.panel :=
  (attentionTest_alone s).panel rfl
@[simp] theorem attentionTest_supply (s : State) : (s.attentionTest).supply = s.supply :=
  (attentionTest_alone s).supply rfl
@[simp] theorem attentionTest_shock (s : State) : (s.attentionTest).shock = s.shock :=
  (attentionTest_alone s).shock rfl
@[simp] theorem attentionTest_coord (s : State) : (s.attentionTest).coord = s.coord :=
  (attentionTest_alone s).coord rfl
@[simp] theorem attentionTest_store (s : State) : (s.attentionTest).store = s.store :=
  (attentionTest_alone s).store rfl
@[simp] theorem attentionTest_flash (s : State) : (s.attentionTest).flash = s.flash :=
  (attentionTest_alone s).flash rfl
@[simp] theorem attentionTest_free (s : State) :
    (s.attentionTest).free = s.free := (attentionTest_alone s).free rfl
@[simp] theorem attentionTest_peers (s : State) : (s.attentionTest).link.peers = s.link.peers :=
  rest_peers ((attentionTest_alone s).link rfl)
@[simp] theorem attentionTest_deferred (s : State) : (s.attentionTest).link.deferred = s.link.deferred :=
  rest_deferred ((attentionTest_alone s).link rfl)
@[simp] theorem attentionTest_buffer (s : State) : (s.attentionTest).link.buffer = s.link.buffer :=
  rest_buffer ((attentionTest_alone s).link rfl)
@[simp] theorem attentionTest_beaconTimer (s : State) : (s.attentionTest).link.beaconTimer = s.link.beaconTimer :=
  rest_beaconTimer ((attentionTest_alone s).link rfl)
@[simp] theorem attentionTest_capture (s : State) : (s.attentionTest).link.capture = s.link.capture :=
  rest_capture ((attentionTest_alone s).link rfl)
@[simp] theorem attentionTest_violations (s : State) : (s.attentionTest).link.violations = s.link.violations :=
  rest_violations ((attentionTest_alone s).link rfl)
@[simp] theorem attentionTest_overflow (s : State) : (s.attentionTest).link.overflow = s.link.overflow :=
  rest_overflow ((attentionTest_alone s).link rfl)
@[simp] theorem attentionTest_laDrive (s : State) : (s.attentionTest).link.laDrive = s.link.laDrive :=
  (attentionTest_alone s).line rfl

/-! ### `setCond` -/

theorem setCond_alone (s : State) (c : Condition) : Effect { queue := true, console := true } s (s.setCond c) :=
  setCond_effect (Effect.refl _ s) rfl rfl

@[simp] theorem setCond_pending (s : State) (c : Condition) : (s.setCond c).pending = s.pending :=
  (setCond_alone s c).pending
@[simp] theorem setCond_sys (s : State) (c : Condition) : (s.setCond c).sys = s.sys := (setCond_alone s c).sys
@[simp] theorem setCond_pins (s : State) (c : Condition) : (s.setCond c).pins = s.pins := (setCond_alone s c).pins
@[simp] theorem setCond_config (s : State) (c : Condition) : (s.setCond c).config = s.config :=
  (setCond_alone s c).config
@[simp] theorem setCond_roster (s : State) (c : Condition) : (s.setCond c).roster = s.roster :=
  (setCond_alone s c).roster rfl
@[simp] theorem setCond_image (s : State) (c : Condition) : (s.setCond c).image = s.image :=
  (setCond_alone s c).image rfl
@[simp] theorem setCond_bay (s : State) (c : Condition) : (s.setCond c).bay = s.bay := (setCond_alone s c).bay rfl
@[simp] theorem setCond_panel (s : State) (c : Condition) : (s.setCond c).panel = s.panel :=
  (setCond_alone s c).panel rfl
@[simp] theorem setCond_supply (s : State) (c : Condition) : (s.setCond c).supply = s.supply :=
  (setCond_alone s c).supply rfl
@[simp] theorem setCond_shock (s : State) (c : Condition) : (s.setCond c).shock = s.shock :=
  (setCond_alone s c).shock rfl
@[simp] theorem setCond_coord (s : State) (c : Condition) : (s.setCond c).coord = s.coord :=
  (setCond_alone s c).coord rfl
@[simp] theorem setCond_store (s : State) (c : Condition) : (s.setCond c).store = s.store :=
  (setCond_alone s c).store rfl
@[simp] theorem setCond_flash (s : State) (c : Condition) : (s.setCond c).flash = s.flash :=
  (setCond_alone s c).flash rfl
@[simp] theorem setCond_free (s : State) (c : Condition) :
    (s.setCond c).free = s.free := (setCond_alone s c).free rfl
@[simp] theorem setCond_peers (s : State) (c : Condition) : (s.setCond c).link.peers = s.link.peers :=
  rest_peers ((setCond_alone s c).link rfl)
@[simp] theorem setCond_deferred (s : State) (c : Condition) : (s.setCond c).link.deferred = s.link.deferred :=
  rest_deferred ((setCond_alone s c).link rfl)
@[simp] theorem setCond_buffer (s : State) (c : Condition) : (s.setCond c).link.buffer = s.link.buffer :=
  rest_buffer ((setCond_alone s c).link rfl)
@[simp] theorem setCond_beaconTimer (s : State) (c : Condition) :
    (s.setCond c).link.beaconTimer = s.link.beaconTimer :=
  rest_beaconTimer ((setCond_alone s c).link rfl)
@[simp] theorem setCond_capture (s : State) (c : Condition) : (s.setCond c).link.capture = s.link.capture :=
  rest_capture ((setCond_alone s c).link rfl)
@[simp] theorem setCond_violations (s : State) (c : Condition) :
    (s.setCond c).link.violations = s.link.violations :=
  rest_violations ((setCond_alone s c).link rfl)
@[simp] theorem setCond_overflow (s : State) (c : Condition) : (s.setCond c).link.overflow = s.link.overflow :=
  rest_overflow ((setCond_alone s c).link rfl)
@[simp] theorem setCond_laDrive (s : State) (c : Condition) : (s.setCond c).link.laDrive = s.link.laDrive :=
  (setCond_alone s c).line rfl

/-! ### `send` -/

theorem send_alone (s : State) (n : Note) : Effect { queue := true, console := true } s (s.send n) :=
  send_effect (Effect.refl _ s) rfl rfl

@[simp] theorem send_pending (s : State) (n : Note) : (s.send n).pending = s.pending := (send_alone s n).pending
@[simp] theorem send_sys (s : State) (n : Note) : (s.send n).sys = s.sys := (send_alone s n).sys
@[simp] theorem send_pins (s : State) (n : Note) : (s.send n).pins = s.pins := (send_alone s n).pins
@[simp] theorem send_config (s : State) (n : Note) : (s.send n).config = s.config := (send_alone s n).config
@[simp] theorem send_roster (s : State) (n : Note) : (s.send n).roster = s.roster := (send_alone s n).roster rfl
@[simp] theorem send_image (s : State) (n : Note) : (s.send n).image = s.image := (send_alone s n).image rfl
@[simp] theorem send_bay (s : State) (n : Note) : (s.send n).bay = s.bay := (send_alone s n).bay rfl
@[simp] theorem send_panel (s : State) (n : Note) : (s.send n).panel = s.panel := (send_alone s n).panel rfl
@[simp] theorem send_supply (s : State) (n : Note) : (s.send n).supply = s.supply := (send_alone s n).supply rfl
@[simp] theorem send_shock (s : State) (n : Note) : (s.send n).shock = s.shock := (send_alone s n).shock rfl
@[simp] theorem send_coord (s : State) (n : Note) : (s.send n).coord = s.coord := (send_alone s n).coord rfl
@[simp] theorem send_store (s : State) (n : Note) : (s.send n).store = s.store := (send_alone s n).store rfl
@[simp] theorem send_flash (s : State) (n : Note) : (s.send n).flash = s.flash := (send_alone s n).flash rfl
@[simp] theorem send_free (s : State) (n : Note) : (s.send n).free = s.free := (send_alone s n).free rfl
@[simp] theorem send_peers (s : State) (n : Note) : (s.send n).link.peers = s.link.peers :=
  rest_peers ((send_alone s n).link rfl)
@[simp] theorem send_deferred (s : State) (n : Note) : (s.send n).link.deferred = s.link.deferred :=
  rest_deferred ((send_alone s n).link rfl)
@[simp] theorem send_buffer (s : State) (n : Note) : (s.send n).link.buffer = s.link.buffer :=
  rest_buffer ((send_alone s n).link rfl)
@[simp] theorem send_beaconTimer (s : State) (n : Note) : (s.send n).link.beaconTimer = s.link.beaconTimer :=
  rest_beaconTimer ((send_alone s n).link rfl)
@[simp] theorem send_capture (s : State) (n : Note) : (s.send n).link.capture = s.link.capture :=
  rest_capture ((send_alone s n).link rfl)
@[simp] theorem send_violations (s : State) (n : Note) : (s.send n).link.violations = s.link.violations :=
  rest_violations ((send_alone s n).link rfl)
@[simp] theorem send_overflow (s : State) (n : Note) : (s.send n).link.overflow = s.link.overflow :=
  rest_overflow ((send_alone s n).link rfl)
@[simp] theorem send_laDrive (s : State) (n : Note) : (s.send n).link.laDrive = s.link.laDrive :=
  (send_alone s n).line rfl

/-! ### `sendTo` -/

theorem sendTo_alone (s : State) (k : Station) (b : NoteBody) :
    Effect { queue := true, console := true } s (s.sendTo k b) :=
  sendTo_effect (Effect.refl _ s) rfl rfl

@[simp] theorem sendTo_pending (s : State) (k : Station) (b : NoteBody) : (s.sendTo k b).pending = s.pending :=
  (sendTo_alone s k b).pending
@[simp] theorem sendTo_sys (s : State) (k : Station) (b : NoteBody) : (s.sendTo k b).sys = s.sys :=
  (sendTo_alone s k b).sys
@[simp] theorem sendTo_pins (s : State) (k : Station) (b : NoteBody) : (s.sendTo k b).pins = s.pins :=
  (sendTo_alone s k b).pins
@[simp] theorem sendTo_config (s : State) (k : Station) (b : NoteBody) : (s.sendTo k b).config = s.config :=
  (sendTo_alone s k b).config
@[simp] theorem sendTo_roster (s : State) (k : Station) (b : NoteBody) : (s.sendTo k b).roster = s.roster :=
  (sendTo_alone s k b).roster rfl
@[simp] theorem sendTo_image (s : State) (k : Station) (b : NoteBody) : (s.sendTo k b).image = s.image :=
  (sendTo_alone s k b).image rfl
@[simp] theorem sendTo_bay (s : State) (k : Station) (b : NoteBody) : (s.sendTo k b).bay = s.bay :=
  (sendTo_alone s k b).bay rfl
@[simp] theorem sendTo_panel (s : State) (k : Station) (b : NoteBody) : (s.sendTo k b).panel = s.panel :=
  (sendTo_alone s k b).panel rfl
@[simp] theorem sendTo_supply (s : State) (k : Station) (b : NoteBody) : (s.sendTo k b).supply = s.supply :=
  (sendTo_alone s k b).supply rfl
@[simp] theorem sendTo_shock (s : State) (k : Station) (b : NoteBody) : (s.sendTo k b).shock = s.shock :=
  (sendTo_alone s k b).shock rfl
@[simp] theorem sendTo_coord (s : State) (k : Station) (b : NoteBody) : (s.sendTo k b).coord = s.coord :=
  (sendTo_alone s k b).coord rfl
@[simp] theorem sendTo_store (s : State) (k : Station) (b : NoteBody) : (s.sendTo k b).store = s.store :=
  (sendTo_alone s k b).store rfl
@[simp] theorem sendTo_flash (s : State) (k : Station) (b : NoteBody) : (s.sendTo k b).flash = s.flash :=
  (sendTo_alone s k b).flash rfl
@[simp] theorem sendTo_free (s : State) (k : Station) (b : NoteBody) : (s.sendTo k b).free = s.free :=
  (sendTo_alone s k b).free rfl
@[simp] theorem sendTo_peers (s : State) (k : Station) (b : NoteBody) :
    (s.sendTo k b).link.peers = s.link.peers :=
  rest_peers ((sendTo_alone s k b).link rfl)
@[simp] theorem sendTo_deferred (s : State) (k : Station) (b : NoteBody) :
    (s.sendTo k b).link.deferred = s.link.deferred :=
  rest_deferred ((sendTo_alone s k b).link rfl)
@[simp] theorem sendTo_buffer (s : State) (k : Station) (b : NoteBody) :
    (s.sendTo k b).link.buffer = s.link.buffer :=
  rest_buffer ((sendTo_alone s k b).link rfl)
@[simp] theorem sendTo_beaconTimer (s : State) (k : Station) (b : NoteBody) :
    (s.sendTo k b).link.beaconTimer = s.link.beaconTimer :=
  rest_beaconTimer ((sendTo_alone s k b).link rfl)
@[simp] theorem sendTo_capture (s : State) (k : Station) (b : NoteBody) :
    (s.sendTo k b).link.capture = s.link.capture :=
  rest_capture ((sendTo_alone s k b).link rfl)
@[simp] theorem sendTo_violations (s : State) (k : Station) (b : NoteBody) :
    (s.sendTo k b).link.violations = s.link.violations :=
  rest_violations ((sendTo_alone s k b).link rfl)
@[simp] theorem sendTo_overflow (s : State) (k : Station) (b : NoteBody) :
    (s.sendTo k b).link.overflow = s.link.overflow :=
  rest_overflow ((sendTo_alone s k b).link rfl)
@[simp] theorem sendTo_laDrive (s : State) (k : Station) (b : NoteBody) :
    (s.sendTo k b).link.laDrive = s.link.laDrive :=
  (sendTo_alone s k b).line rfl

/-! ### `sendAll` -/

theorem sendAll_alone (s : State) (b : NoteBody) : Effect { queue := true, console := true } s (s.sendAll b) :=
  sendAll_effect (Effect.refl _ s) rfl rfl

@[simp] theorem sendAll_pending (s : State) (b : NoteBody) : (s.sendAll b).pending = s.pending :=
  (sendAll_alone s b).pending
@[simp] theorem sendAll_sys (s : State) (b : NoteBody) : (s.sendAll b).sys = s.sys := (sendAll_alone s b).sys
@[simp] theorem sendAll_pins (s : State) (b : NoteBody) : (s.sendAll b).pins = s.pins := (sendAll_alone s b).pins
@[simp] theorem sendAll_config (s : State) (b : NoteBody) : (s.sendAll b).config = s.config :=
  (sendAll_alone s b).config
@[simp] theorem sendAll_roster (s : State) (b : NoteBody) : (s.sendAll b).roster = s.roster :=
  (sendAll_alone s b).roster rfl
@[simp] theorem sendAll_image (s : State) (b : NoteBody) : (s.sendAll b).image = s.image :=
  (sendAll_alone s b).image rfl
@[simp] theorem sendAll_bay (s : State) (b : NoteBody) : (s.sendAll b).bay = s.bay := (sendAll_alone s b).bay rfl
@[simp] theorem sendAll_panel (s : State) (b : NoteBody) : (s.sendAll b).panel = s.panel :=
  (sendAll_alone s b).panel rfl
@[simp] theorem sendAll_supply (s : State) (b : NoteBody) : (s.sendAll b).supply = s.supply :=
  (sendAll_alone s b).supply rfl
@[simp] theorem sendAll_shock (s : State) (b : NoteBody) : (s.sendAll b).shock = s.shock :=
  (sendAll_alone s b).shock rfl
@[simp] theorem sendAll_coord (s : State) (b : NoteBody) : (s.sendAll b).coord = s.coord :=
  (sendAll_alone s b).coord rfl
@[simp] theorem sendAll_store (s : State) (b : NoteBody) : (s.sendAll b).store = s.store :=
  (sendAll_alone s b).store rfl
@[simp] theorem sendAll_flash (s : State) (b : NoteBody) : (s.sendAll b).flash = s.flash :=
  (sendAll_alone s b).flash rfl
@[simp] theorem sendAll_free (s : State) (b : NoteBody) :
    (s.sendAll b).free = s.free := (sendAll_alone s b).free rfl
@[simp] theorem sendAll_peers (s : State) (b : NoteBody) : (s.sendAll b).link.peers = s.link.peers :=
  rest_peers ((sendAll_alone s b).link rfl)
@[simp] theorem sendAll_deferred (s : State) (b : NoteBody) : (s.sendAll b).link.deferred = s.link.deferred :=
  rest_deferred ((sendAll_alone s b).link rfl)
@[simp] theorem sendAll_buffer (s : State) (b : NoteBody) : (s.sendAll b).link.buffer = s.link.buffer :=
  rest_buffer ((sendAll_alone s b).link rfl)
@[simp] theorem sendAll_beaconTimer (s : State) (b : NoteBody) :
    (s.sendAll b).link.beaconTimer = s.link.beaconTimer :=
  rest_beaconTimer ((sendAll_alone s b).link rfl)
@[simp] theorem sendAll_capture (s : State) (b : NoteBody) : (s.sendAll b).link.capture = s.link.capture :=
  rest_capture ((sendAll_alone s b).link rfl)
@[simp] theorem sendAll_violations (s : State) (b : NoteBody) :
    (s.sendAll b).link.violations = s.link.violations :=
  rest_violations ((sendAll_alone s b).link rfl)
@[simp] theorem sendAll_overflow (s : State) (b : NoteBody) : (s.sendAll b).link.overflow = s.link.overflow :=
  rest_overflow ((sendAll_alone s b).link rfl)
@[simp] theorem sendAll_laDrive (s : State) (b : NoteBody) : (s.sendAll b).link.laDrive = s.link.laDrive :=
  (sendAll_alone s b).line rfl

/-! ### `sendBase` -/

theorem sendBase_alone (s : State) (b : NoteBody) : Effect { queue := true, console := true } s (s.sendBase b) :=
  sendBase_effect (Effect.refl _ s) rfl rfl

@[simp] theorem sendBase_pending (s : State) (b : NoteBody) : (s.sendBase b).pending = s.pending :=
  (sendBase_alone s b).pending
@[simp] theorem sendBase_sys (s : State) (b : NoteBody) : (s.sendBase b).sys = s.sys := (sendBase_alone s b).sys
@[simp] theorem sendBase_pins (s : State) (b : NoteBody) :
    (s.sendBase b).pins = s.pins := (sendBase_alone s b).pins
@[simp] theorem sendBase_config (s : State) (b : NoteBody) : (s.sendBase b).config = s.config :=
  (sendBase_alone s b).config
@[simp] theorem sendBase_roster (s : State) (b : NoteBody) : (s.sendBase b).roster = s.roster :=
  (sendBase_alone s b).roster rfl
@[simp] theorem sendBase_image (s : State) (b : NoteBody) : (s.sendBase b).image = s.image :=
  (sendBase_alone s b).image rfl
@[simp] theorem sendBase_bay (s : State) (b : NoteBody) :
    (s.sendBase b).bay = s.bay := (sendBase_alone s b).bay rfl
@[simp] theorem sendBase_panel (s : State) (b : NoteBody) : (s.sendBase b).panel = s.panel :=
  (sendBase_alone s b).panel rfl
@[simp] theorem sendBase_supply (s : State) (b : NoteBody) : (s.sendBase b).supply = s.supply :=
  (sendBase_alone s b).supply rfl
@[simp] theorem sendBase_shock (s : State) (b : NoteBody) : (s.sendBase b).shock = s.shock :=
  (sendBase_alone s b).shock rfl
@[simp] theorem sendBase_coord (s : State) (b : NoteBody) : (s.sendBase b).coord = s.coord :=
  (sendBase_alone s b).coord rfl
@[simp] theorem sendBase_store (s : State) (b : NoteBody) : (s.sendBase b).store = s.store :=
  (sendBase_alone s b).store rfl
@[simp] theorem sendBase_flash (s : State) (b : NoteBody) : (s.sendBase b).flash = s.flash :=
  (sendBase_alone s b).flash rfl
@[simp] theorem sendBase_free (s : State) (b : NoteBody) : (s.sendBase b).free = s.free :=
  (sendBase_alone s b).free rfl
@[simp] theorem sendBase_peers (s : State) (b : NoteBody) : (s.sendBase b).link.peers = s.link.peers :=
  rest_peers ((sendBase_alone s b).link rfl)
@[simp] theorem sendBase_deferred (s : State) (b : NoteBody) : (s.sendBase b).link.deferred = s.link.deferred :=
  rest_deferred ((sendBase_alone s b).link rfl)
@[simp] theorem sendBase_buffer (s : State) (b : NoteBody) : (s.sendBase b).link.buffer = s.link.buffer :=
  rest_buffer ((sendBase_alone s b).link rfl)
@[simp] theorem sendBase_beaconTimer (s : State) (b : NoteBody) :
    (s.sendBase b).link.beaconTimer = s.link.beaconTimer :=
  rest_beaconTimer ((sendBase_alone s b).link rfl)
@[simp] theorem sendBase_capture (s : State) (b : NoteBody) : (s.sendBase b).link.capture = s.link.capture :=
  rest_capture ((sendBase_alone s b).link rfl)
@[simp] theorem sendBase_violations (s : State) (b : NoteBody) :
    (s.sendBase b).link.violations = s.link.violations :=
  rest_violations ((sendBase_alone s b).link rfl)
@[simp] theorem sendBase_overflow (s : State) (b : NoteBody) : (s.sendBase b).link.overflow = s.link.overflow :=
  rest_overflow ((sendBase_alone s b).link rfl)
@[simp] theorem sendBase_laDrive (s : State) (b : NoteBody) : (s.sendBase b).link.laDrive = s.link.laDrive :=
  (sendBase_alone s b).line rfl

/-! ### `reply` -/

theorem reply_alone (s : State) (k : Kind) (r : Result) (v : ReplyValues) :
    Effect { queue := true, console := true } s (s.reply k r v) :=
  reply_effect (Effect.refl _ s) rfl rfl

@[simp] theorem reply_pending (s : State) (k : Kind) (r : Result) (v : ReplyValues) :
    (s.reply k r v).pending = s.pending :=
  (reply_alone s k r v).pending
@[simp] theorem reply_sys (s : State) (k : Kind) (r : Result) (v : ReplyValues) : (s.reply k r v).sys = s.sys :=
  (reply_alone s k r v).sys
@[simp] theorem reply_pins (s : State) (k : Kind) (r : Result) (v : ReplyValues) :
    (s.reply k r v).pins = s.pins :=
  (reply_alone s k r v).pins
@[simp] theorem reply_config (s : State) (k : Kind) (r : Result) (v : ReplyValues) :
    (s.reply k r v).config = s.config :=
  (reply_alone s k r v).config
@[simp] theorem reply_roster (s : State) (k : Kind) (r : Result) (v : ReplyValues) :
    (s.reply k r v).roster = s.roster :=
  (reply_alone s k r v).roster rfl
@[simp] theorem reply_image (s : State) (k : Kind) (r : Result) (v : ReplyValues) :
    (s.reply k r v).image = s.image :=
  (reply_alone s k r v).image rfl
@[simp] theorem reply_bay (s : State) (k : Kind) (r : Result) (v : ReplyValues) : (s.reply k r v).bay = s.bay :=
  (reply_alone s k r v).bay rfl
@[simp] theorem reply_panel (s : State) (k : Kind) (r : Result) (v : ReplyValues) :
    (s.reply k r v).panel = s.panel :=
  (reply_alone s k r v).panel rfl
@[simp] theorem reply_supply (s : State) (k : Kind) (r : Result) (v : ReplyValues) :
    (s.reply k r v).supply = s.supply :=
  (reply_alone s k r v).supply rfl
@[simp] theorem reply_shock (s : State) (k : Kind) (r : Result) (v : ReplyValues) :
    (s.reply k r v).shock = s.shock :=
  (reply_alone s k r v).shock rfl
@[simp] theorem reply_coord (s : State) (k : Kind) (r : Result) (v : ReplyValues) :
    (s.reply k r v).coord = s.coord :=
  (reply_alone s k r v).coord rfl
@[simp] theorem reply_store (s : State) (k : Kind) (r : Result) (v : ReplyValues) :
    (s.reply k r v).store = s.store :=
  (reply_alone s k r v).store rfl
@[simp] theorem reply_flash (s : State) (k : Kind) (r : Result) (v : ReplyValues) :
    (s.reply k r v).flash = s.flash :=
  (reply_alone s k r v).flash rfl
@[simp] theorem reply_free (s : State) (k : Kind) (r : Result) (v : ReplyValues) :
    (s.reply k r v).free = s.free :=
  (reply_alone s k r v).free rfl
@[simp] theorem reply_peers (s : State) (k : Kind) (r : Result) (v : ReplyValues) :
    (s.reply k r v).link.peers = s.link.peers :=
  rest_peers ((reply_alone s k r v).link rfl)
@[simp] theorem reply_deferred (s : State) (k : Kind) (r : Result) (v : ReplyValues) :
    (s.reply k r v).link.deferred = s.link.deferred :=
  rest_deferred ((reply_alone s k r v).link rfl)
@[simp] theorem reply_buffer (s : State) (k : Kind) (r : Result) (v : ReplyValues) :
    (s.reply k r v).link.buffer = s.link.buffer :=
  rest_buffer ((reply_alone s k r v).link rfl)
@[simp] theorem reply_beaconTimer (s : State) (k : Kind) (r : Result) (v : ReplyValues) :
    (s.reply k r v).link.beaconTimer = s.link.beaconTimer :=
  rest_beaconTimer ((reply_alone s k r v).link rfl)
@[simp] theorem reply_capture (s : State) (k : Kind) (r : Result) (v : ReplyValues) :
    (s.reply k r v).link.capture = s.link.capture :=
  rest_capture ((reply_alone s k r v).link rfl)
@[simp] theorem reply_violations (s : State) (k : Kind) (r : Result) (v : ReplyValues) :
    (s.reply k r v).link.violations = s.link.violations :=
  rest_violations ((reply_alone s k r v).link rfl)
@[simp] theorem reply_overflow (s : State) (k : Kind) (r : Result) (v : ReplyValues) :
    (s.reply k r v).link.overflow = s.link.overflow :=
  rest_overflow ((reply_alone s k r v).link rfl)
@[simp] theorem reply_laDrive (s : State) (k : Kind) (r : Result) (v : ReplyValues) :
    (s.reply k r v).link.laDrive = s.link.laDrive :=
  (reply_alone s k r v).line rfl

/-! ### `refuse` -/

theorem refuse_alone (s : State) (k : Kind) (r : RefusalReason) (v : ReplyValues) :
    Effect { queue := true, console := true } s (s.refuse k r v) :=
  refuse_effect (Effect.refl _ s) rfl rfl

@[simp] theorem refuse_pending (s : State) (k : Kind) (r : RefusalReason) (v : ReplyValues) :
    (s.refuse k r v).pending = s.pending :=
  (refuse_alone s k r v).pending
@[simp] theorem refuse_sys (s : State) (k : Kind) (r : RefusalReason) (v : ReplyValues) :
    (s.refuse k r v).sys = s.sys :=
  (refuse_alone s k r v).sys
@[simp] theorem refuse_pins (s : State) (k : Kind) (r : RefusalReason) (v : ReplyValues) :
    (s.refuse k r v).pins = s.pins :=
  (refuse_alone s k r v).pins
@[simp] theorem refuse_config (s : State) (k : Kind) (r : RefusalReason) (v : ReplyValues) :
    (s.refuse k r v).config = s.config :=
  (refuse_alone s k r v).config
@[simp] theorem refuse_roster (s : State) (k : Kind) (r : RefusalReason) (v : ReplyValues) :
    (s.refuse k r v).roster = s.roster :=
  (refuse_alone s k r v).roster rfl
@[simp] theorem refuse_image (s : State) (k : Kind) (r : RefusalReason) (v : ReplyValues) :
    (s.refuse k r v).image = s.image :=
  (refuse_alone s k r v).image rfl
@[simp] theorem refuse_bay (s : State) (k : Kind) (r : RefusalReason) (v : ReplyValues) :
    (s.refuse k r v).bay = s.bay :=
  (refuse_alone s k r v).bay rfl
@[simp] theorem refuse_panel (s : State) (k : Kind) (r : RefusalReason) (v : ReplyValues) :
    (s.refuse k r v).panel = s.panel :=
  (refuse_alone s k r v).panel rfl
@[simp] theorem refuse_supply (s : State) (k : Kind) (r : RefusalReason) (v : ReplyValues) :
    (s.refuse k r v).supply = s.supply :=
  (refuse_alone s k r v).supply rfl
@[simp] theorem refuse_shock (s : State) (k : Kind) (r : RefusalReason) (v : ReplyValues) :
    (s.refuse k r v).shock = s.shock :=
  (refuse_alone s k r v).shock rfl
@[simp] theorem refuse_coord (s : State) (k : Kind) (r : RefusalReason) (v : ReplyValues) :
    (s.refuse k r v).coord = s.coord :=
  (refuse_alone s k r v).coord rfl
@[simp] theorem refuse_store (s : State) (k : Kind) (r : RefusalReason) (v : ReplyValues) :
    (s.refuse k r v).store = s.store :=
  (refuse_alone s k r v).store rfl
@[simp] theorem refuse_flash (s : State) (k : Kind) (r : RefusalReason) (v : ReplyValues) :
    (s.refuse k r v).flash = s.flash :=
  (refuse_alone s k r v).flash rfl
@[simp] theorem refuse_free (s : State) (k : Kind) (r : RefusalReason) (v : ReplyValues) :
    (s.refuse k r v).free = s.free :=
  (refuse_alone s k r v).free rfl
@[simp] theorem refuse_peers (s : State) (k : Kind) (r : RefusalReason) (v : ReplyValues) :
    (s.refuse k r v).link.peers = s.link.peers :=
  rest_peers ((refuse_alone s k r v).link rfl)
@[simp] theorem refuse_deferred (s : State) (k : Kind) (r : RefusalReason) (v : ReplyValues) :
    (s.refuse k r v).link.deferred = s.link.deferred :=
  rest_deferred ((refuse_alone s k r v).link rfl)
@[simp] theorem refuse_buffer (s : State) (k : Kind) (r : RefusalReason) (v : ReplyValues) :
    (s.refuse k r v).link.buffer = s.link.buffer :=
  rest_buffer ((refuse_alone s k r v).link rfl)
@[simp] theorem refuse_beaconTimer (s : State) (k : Kind) (r : RefusalReason) (v : ReplyValues) :
    (s.refuse k r v).link.beaconTimer = s.link.beaconTimer :=
  rest_beaconTimer ((refuse_alone s k r v).link rfl)
@[simp] theorem refuse_capture (s : State) (k : Kind) (r : RefusalReason) (v : ReplyValues) :
    (s.refuse k r v).link.capture = s.link.capture :=
  rest_capture ((refuse_alone s k r v).link rfl)
@[simp] theorem refuse_violations (s : State) (k : Kind) (r : RefusalReason) (v : ReplyValues) :
    (s.refuse k r v).link.violations = s.link.violations :=
  rest_violations ((refuse_alone s k r v).link rfl)
@[simp] theorem refuse_overflow (s : State) (k : Kind) (r : RefusalReason) (v : ReplyValues) :
    (s.refuse k r v).link.overflow = s.link.overflow :=
  rest_overflow ((refuse_alone s k r v).link rfl)
@[simp] theorem refuse_laDrive (s : State) (k : Kind) (r : RefusalReason) (v : ReplyValues) :
    (s.refuse k r v).link.laDrive = s.link.laDrive :=
  (refuse_alone s k r v).line rfl

/-! ### `storeDone` -/

theorem storeDone_alone (s : State) (k : Kind) (r : Result) (v : StoreValues) :
    Effect { queue := true, console := true } s (s.storeDone k r v) :=
  storeDone_effect (Effect.refl _ s) rfl rfl

@[simp] theorem storeDone_pending (s : State) (k : Kind) (r : Result) (v : StoreValues) :
    (s.storeDone k r v).pending = s.pending :=
  (storeDone_alone s k r v).pending
@[simp] theorem storeDone_sys (s : State) (k : Kind) (r : Result) (v : StoreValues) :
    (s.storeDone k r v).sys = s.sys :=
  (storeDone_alone s k r v).sys
@[simp] theorem storeDone_pins (s : State) (k : Kind) (r : Result) (v : StoreValues) :
    (s.storeDone k r v).pins = s.pins :=
  (storeDone_alone s k r v).pins
@[simp] theorem storeDone_config (s : State) (k : Kind) (r : Result) (v : StoreValues) :
    (s.storeDone k r v).config = s.config :=
  (storeDone_alone s k r v).config
@[simp] theorem storeDone_roster (s : State) (k : Kind) (r : Result) (v : StoreValues) :
    (s.storeDone k r v).roster = s.roster :=
  (storeDone_alone s k r v).roster rfl
@[simp] theorem storeDone_image (s : State) (k : Kind) (r : Result) (v : StoreValues) :
    (s.storeDone k r v).image = s.image :=
  (storeDone_alone s k r v).image rfl
@[simp] theorem storeDone_bay (s : State) (k : Kind) (r : Result) (v : StoreValues) :
    (s.storeDone k r v).bay = s.bay :=
  (storeDone_alone s k r v).bay rfl
@[simp] theorem storeDone_panel (s : State) (k : Kind) (r : Result) (v : StoreValues) :
    (s.storeDone k r v).panel = s.panel :=
  (storeDone_alone s k r v).panel rfl
@[simp] theorem storeDone_supply (s : State) (k : Kind) (r : Result) (v : StoreValues) :
    (s.storeDone k r v).supply = s.supply :=
  (storeDone_alone s k r v).supply rfl
@[simp] theorem storeDone_shock (s : State) (k : Kind) (r : Result) (v : StoreValues) :
    (s.storeDone k r v).shock = s.shock :=
  (storeDone_alone s k r v).shock rfl
@[simp] theorem storeDone_coord (s : State) (k : Kind) (r : Result) (v : StoreValues) :
    (s.storeDone k r v).coord = s.coord :=
  (storeDone_alone s k r v).coord rfl
@[simp] theorem storeDone_store (s : State) (k : Kind) (r : Result) (v : StoreValues) :
    (s.storeDone k r v).store = s.store :=
  (storeDone_alone s k r v).store rfl
@[simp] theorem storeDone_flash (s : State) (k : Kind) (r : Result) (v : StoreValues) :
    (s.storeDone k r v).flash = s.flash :=
  (storeDone_alone s k r v).flash rfl
@[simp] theorem storeDone_free (s : State) (k : Kind) (r : Result) (v : StoreValues) :
    (s.storeDone k r v).free = s.free :=
  (storeDone_alone s k r v).free rfl
@[simp] theorem storeDone_peers (s : State) (k : Kind) (r : Result) (v : StoreValues) :
    (s.storeDone k r v).link.peers = s.link.peers :=
  rest_peers ((storeDone_alone s k r v).link rfl)
@[simp] theorem storeDone_deferred (s : State) (k : Kind) (r : Result) (v : StoreValues) :
    (s.storeDone k r v).link.deferred = s.link.deferred :=
  rest_deferred ((storeDone_alone s k r v).link rfl)
@[simp] theorem storeDone_buffer (s : State) (k : Kind) (r : Result) (v : StoreValues) :
    (s.storeDone k r v).link.buffer = s.link.buffer :=
  rest_buffer ((storeDone_alone s k r v).link rfl)
@[simp] theorem storeDone_beaconTimer (s : State) (k : Kind) (r : Result) (v : StoreValues) :
    (s.storeDone k r v).link.beaconTimer = s.link.beaconTimer :=
  rest_beaconTimer ((storeDone_alone s k r v).link rfl)
@[simp] theorem storeDone_capture (s : State) (k : Kind) (r : Result) (v : StoreValues) :
    (s.storeDone k r v).link.capture = s.link.capture :=
  rest_capture ((storeDone_alone s k r v).link rfl)
@[simp] theorem storeDone_violations (s : State) (k : Kind) (r : Result) (v : StoreValues) :
    (s.storeDone k r v).link.violations = s.link.violations :=
  rest_violations ((storeDone_alone s k r v).link rfl)
@[simp] theorem storeDone_overflow (s : State) (k : Kind) (r : Result) (v : StoreValues) :
    (s.storeDone k r v).link.overflow = s.link.overflow :=
  rest_overflow ((storeDone_alone s k r v).link rfl)
@[simp] theorem storeDone_laDrive (s : State) (k : Kind) (r : Result) (v : StoreValues) :
    (s.storeDone k r v).link.laDrive = s.link.laDrive :=
  (storeDone_alone s k r v).line rfl

/-! ### `hand` -/

theorem hand_alone (s : State) (c : RecordContent) :
    Effect { queue := true, console := true, store := true } s (s.hand c) :=
  hand_effect (Effect.refl _ s) rfl rfl rfl

@[simp] theorem hand_pending (s : State) (c : RecordContent) : (s.hand c).pending = s.pending :=
  (hand_alone s c).pending
@[simp] theorem hand_sys (s : State) (c : RecordContent) : (s.hand c).sys = s.sys := (hand_alone s c).sys
@[simp] theorem hand_pins (s : State) (c : RecordContent) : (s.hand c).pins = s.pins := (hand_alone s c).pins
@[simp] theorem hand_config (s : State) (c : RecordContent) :
    (s.hand c).config = s.config := (hand_alone s c).config
@[simp] theorem hand_roster (s : State) (c : RecordContent) : (s.hand c).roster = s.roster :=
  (hand_alone s c).roster rfl
@[simp] theorem hand_image (s : State) (c : RecordContent) :
    (s.hand c).image = s.image := (hand_alone s c).image rfl
@[simp] theorem hand_bay (s : State) (c : RecordContent) : (s.hand c).bay = s.bay := (hand_alone s c).bay rfl
@[simp] theorem hand_panel (s : State) (c : RecordContent) :
    (s.hand c).panel = s.panel := (hand_alone s c).panel rfl
@[simp] theorem hand_supply (s : State) (c : RecordContent) : (s.hand c).supply = s.supply :=
  (hand_alone s c).supply rfl
@[simp] theorem hand_shock (s : State) (c : RecordContent) :
    (s.hand c).shock = s.shock := (hand_alone s c).shock rfl
@[simp] theorem hand_coord (s : State) (c : RecordContent) :
    (s.hand c).coord = s.coord := (hand_alone s c).coord rfl
@[simp] theorem hand_flash (s : State) (c : RecordContent) :
    (s.hand c).flash = s.flash := (hand_alone s c).flash rfl
@[simp] theorem hand_free (s : State) (c : RecordContent) : (s.hand c).free = s.free := (hand_alone s c).free rfl
@[simp] theorem hand_peers (s : State) (c : RecordContent) : (s.hand c).link.peers = s.link.peers :=
  rest_peers ((hand_alone s c).link rfl)
@[simp] theorem hand_deferred (s : State) (c : RecordContent) : (s.hand c).link.deferred = s.link.deferred :=
  rest_deferred ((hand_alone s c).link rfl)
@[simp] theorem hand_buffer (s : State) (c : RecordContent) : (s.hand c).link.buffer = s.link.buffer :=
  rest_buffer ((hand_alone s c).link rfl)
@[simp] theorem hand_beaconTimer (s : State) (c : RecordContent) :
    (s.hand c).link.beaconTimer = s.link.beaconTimer :=
  rest_beaconTimer ((hand_alone s c).link rfl)
@[simp] theorem hand_capture (s : State) (c : RecordContent) : (s.hand c).link.capture = s.link.capture :=
  rest_capture ((hand_alone s c).link rfl)
@[simp] theorem hand_violations (s : State) (c : RecordContent) :
    (s.hand c).link.violations = s.link.violations :=
  rest_violations ((hand_alone s c).link rfl)
@[simp] theorem hand_overflow (s : State) (c : RecordContent) : (s.hand c).link.overflow = s.link.overflow :=
  rest_overflow ((hand_alone s c).link rfl)
@[simp] theorem hand_laDrive (s : State) (c : RecordContent) : (s.hand c).link.laDrive = s.link.laDrive :=
  (hand_alone s c).line rfl

end Sys2Proof.Machine
end

