-- ==== Sys2Proof/Laws/Light.lean ====
section
/-! SUPPORT. What the events of the panel leave: the faders, the configured fields, the zone states and the string test
are the work's own, and the targets are those of a last recomputation (R75, R79). -/

namespace Sys2Proof.Machine

/-- The fields of the panel and the supply that no recomputation and nothing after it changes. -/
structure LightKept (s t : State) : Prop where
  results : t.supply.results = s.supply.results
  test : t.supply.test = s.supply.test
  groupA : t.panel.groupA = s.panel.groupA
  groupB : t.panel.groupB = s.panel.groupB
  mode : t.panel.mode = s.panel.mode
  filter : t.panel.filter = s.panel.filter
  ambient : t.panel.ambient = s.panel.ambient
  zones : ∀ z : ZoneId, t.panel.zones[z].config = s.panel.zones[z].config
    ∧ t.panel.zones[z].enabled = s.panel.zones[z].enabled

theorem LightKept.refl (s : State) : LightKept s s :=
  ⟨rfl, rfl, rfl, rfl, rfl, rfl, rfl, fun _ => ⟨rfl, rfl⟩⟩

theorem LightKept.trans {s t u : State} (h : LightKept s t) (k : LightKept t u) : LightKept s u where
  results := k.results.trans h.results
  test := k.test.trans h.test
  groupA := k.groupA.trans h.groupA
  groupB := k.groupB.trans h.groupB
  mode := k.mode.trans h.mode
  filter := k.filter.trans h.filter
  ambient := k.ambient.trans h.ambient
  zones := fun z => ⟨(k.zones z).1.trans (h.zones z).1, (k.zones z).2.trans (h.zones z).2⟩

theorem retarget_light (s : State) : LightKept s s.retarget := by
  refine ⟨rfl, rfl, rfl, rfl, rfl, rfl, rfl, fun z => ?_⟩
  simp [State.retarget, State.withPanel, Panel.cut, Panel.withTargets, Panel.withDemands]

theorem stage_light (s : State) (g : Stage) : LightKept s (s.withSupply fun b => { b with stage := g }) :=
  ⟨rfl, rfl, rfl, rfl, rfl, rfl, rfl, fun _ => ⟨rfl, rfl⟩⟩

theorem indicate_light (s : State) : LightKept s s.indicate :=
  ⟨rfl, rfl, rfl, rfl, rfl, rfl, rfl, fun _ => ⟨rfl, rfl⟩⟩

theorem setCond_light (s : State) (c : Condition) : LightKept s (s.setCond c) := by
  have e := setCond_effect (p := { queue := true, console := true }) (c := c) (Effect.refl _ s) rfl rfl
  have hp := e.panel rfl
  have hs := e.supply rfl
  exact ⟨congrArg _ hs, congrArg _ hs, congrArg _ hp, congrArg _ hp, congrArg _ hp, congrArg _ hp, congrArg _ hp,
    fun z => by rw [hp]; exact ⟨rfl, rfl⟩⟩

theorem boostTest_light (s : State) : LightKept s s.boostTest := by
  unfold State.boostTest
  dsimp only
  split
  · exact (stage_light s _).trans (setCond_light _ _)
  · exact stage_light s _

/-- What follows a recomputation ends with one (R79, R86, R89): the zones are those of the event, or those of a later
recomputation of a state with the same faders. -/
structure Settles (t u : State) : Prop where
  kept : LightKept t u
  zones : (u.panel.zones = t.panel.zones ∧ u.supply.stage = t.supply.stage) ∨ ∃ v, LightKept t v ∧ v.sys = t.sys
    ∧ v.shock = t.shock ∧ v.image = t.image ∧ v.link.peers = t.link.peers ∧ v.supply.stage = u.supply.stage
    ∧ u.panel.zones = v.retarget.panel.zones

theorem settlePanel_settles (t before : State) : Settles t (t.settlePanel before) := by
  unfold State.settlePanel
  dsimp only
  have left : ∃ v, v = (if (t.supply.stage == .off && t.panel.anyTarget && !before.panel.anyTarget) = true then
      (t.withSupply fun b => { b with stage := t.entryStage }).retarget else t) ∧ LightKept t v ∧
      v.sys = t.sys ∧ v.shock = t.shock ∧ v.image = t.image ∧ v.link.peers = t.link.peers ∧
      (v = t ∨ ∃ w, LightKept t w ∧ w.sys = t.sys ∧ w.shock = t.shock ∧ w.image = t.image ∧
        w.link.peers = t.link.peers ∧ v = w.retarget) := by
    refine ⟨_, rfl, ?_⟩
    split
    · exact ⟨(stage_light t t.entryStage).trans (retarget_light _), rfl, rfl, rfl, rfl,
        .inr ⟨_, stage_light t t.entryStage, rfl, rfl, rfl, rfl, rfl⟩⟩
    · exact ⟨LightKept.refl t, rfl, rfl, rfl, rfl, .inl rfl⟩
  obtain ⟨v, hv, kv, yv, sv, iv, pv, zv⟩ := left
  rw [← hv]
  split
  · have e := boostTest_light v.indicate
    have f := boostTest_effect (p := { queue := true, console := true, supply := true }) (Effect.refl _ v.indicate)
      rfl rfl rfl
    generalize v.indicate.boostTest = w at e f ⊢
    have kw := kv.trans ((indicate_light v).trans e)
    have sw : w.shock = t.shock := (f.shock rfl).trans sv
    have iw : w.image = t.image := (f.image rfl).trans iv
    have pw : w.link.peers = t.link.peers := by
      exact (rest_peers (f.link rfl)).trans pv
    refine ⟨?_, .inr ⟨w, kw, f.sys.trans yv, sw, iw, pw, rfl, rfl⟩⟩
    have k := kw.trans (retarget_light w)
    exact ⟨k.results, k.test, k.groupA, k.groupB, k.mode, k.filter, k.ambient, k.zones⟩
  · refine ⟨⟨kv.results, kv.test, kv.groupA, kv.groupB, kv.mode, kv.filter, kv.ambient, kv.zones⟩, ?_⟩
    rcases zv with h | ⟨w, kw, yw, sw, iw, pw, h⟩
    · exact .inl ⟨by rw [h]; rfl, by rw [h]; rfl⟩
    · exact .inr ⟨w, kw, yw, sw, iw, pw, by rw [h]; rfl, by rw [h]; rfl⟩

theorem panelEvent_light (s : State) (w : State → State) : LightKept (w s) (s.panelEvent w) :=
  (retarget_light _).trans (settlePanel_settles _ s).kept

/-- After an event of the panel the zones are those of a recomputation with the event's faders (R75). -/
theorem panelEvent_zones (s : State) (w : State → State) : ∃ v, LightKept (w s) v ∧ v.sys = (w s).sys ∧
    v.shock = (w s).shock ∧ v.image = (w s).image ∧ v.link.peers = (w s).link.peers ∧
    v.supply.stage = (s.panelEvent w).supply.stage ∧ (s.panelEvent w).panel.zones = v.retarget.panel.zones := by
  rcases (settlePanel_settles (w s).retarget s).zones with ⟨h, g⟩ | ⟨v, kv, yv, sv, iv, pv, tv, zv⟩
  · exact ⟨w s, LightKept.refl _, rfl, rfl, rfl, rfl, g.symm, h⟩
  · exact ⟨v, (retarget_light _).trans kv, yv, sv, iv, pv, tv, zv⟩

/-! ### The zones of a recomputation (R71, R74) -/

/-- A sum over a vector of six, member by member. -/
theorem sum_six {α : Type} (v : Vector α 6) (f : α → Nat) :
    (v.toList.map f).sum = f v[0] + f v[1] + f v[2] + f v[3] + f v[4] + f v[5] := by
  rcases v with ⟨⟨l⟩, h⟩
  match l, h with
  | [a, b, c, d, e, g], _ => simp [Vector.toList]; omega

/-- A sum over the zone table, zone by zone. -/
theorem sumZones_eq (p : Panel) (f : Zone → Nat) :
    sumZones p f = f p.zones[0] + f p.zones[1] + f p.zones[2] + f p.zones[3] + f p.zones[4] + f p.zones[5] :=
  sum_six _ _

/-- What a zone adds to the sum of the sheddable demands. -/
def shedPart (z : Zone) : Nat := if z.config.sheddable then z.demand else 0

/-- The target that a recomputation gives a zone. -/
def State.newTarget (s : State) (z : ZoneId) : Nat :=
  let p := s.panel.withDemands s.shockFader
  targetOf s.effective (sumZones p Zone.demand) (sumZones p shedPart) (sumZones p Zone.demand - sumZones p shedPart)
    { s.panel.zones[z] with demand := demandOf s.panel s.shockFader s.panel.zones[z] }

/-- A zone after a recomputation. -/
theorem retarget_zone (s : State) (z : ZoneId) : s.retarget.panel.zones[z] = { s.panel.zones[z] with
    demand := demandOf s.panel s.shockFader s.panel.zones[z]
    target := s.newTarget z
    applied := if s.hold then 0 else min s.panel.zones[z].applied (s.newTarget z) } := by
  have e : (fun z : Zone => if z.config.sheddable then z.demand else 0) = shedPart := rfl
  simp only [State.retarget, State.withPanel, Panel.cut, Panel.withTargets, e, State.newTarget]
  simp [Panel.withDemands]

/-- Floored quotients sum to at most the floored quotient of the sum. -/
theorem div_add_div (a b n : Nat) : a / n + b / n ≤ (a + b) / n := by
  by_cases h : n = 0
  · subst h; simp
  · rw [Nat.le_div_iff_mul_le (by omega)]
    have := Nat.div_mul_le_self a n
    have := Nat.div_mul_le_self b n
    rw [Nat.add_mul]
    omega

/-- Six floored shares of `k` are at most `k`. -/
theorem shares_le (a b c d e f k n : Nat) (h : a + b + c + d + e + f ≤ n) :
    a * k / n + b * k / n + c * k / n + d * k / n + e * k / n + f * k / n ≤ k := by
  by_cases hn : n = 0
  · subst hn; simp
  have := div_add_div (a * k) (b * k) n
  have := div_add_div (a * k + b * k) (c * k) n
  have := div_add_div (a * k + b * k + c * k) (d * k) n
  have := div_add_div (a * k + b * k + c * k + d * k) (e * k) n
  have := div_add_div (a * k + b * k + c * k + d * k + e * k) (f * k) n
  have : (a * k + b * k + c * k + d * k + e * k + f * k) / n ≤ k := by
    have hs : a * k + b * k + c * k + d * k + e * k + f * k = (a + b + c + d + e + f) * k := by simp [Nat.add_mul]
    rw [hs]
    exact Nat.div_le_of_le_mul (Nat.mul_le_mul_right _ h)
  omega

/-- The clamp of R74: no zone above its demand, and the sum within the allowance. -/
theorem clamp (x : Fin 6 → Zone) (a total shed : Nat)
    (ht : total = (x 0).demand + (x 1).demand + (x 2).demand + (x 3).demand + (x 4).demand + (x 5).demand)
    (hs : shed = shedPart (x 0) + shedPart (x 1) + shedPart (x 2) + shedPart (x 3) + shedPart (x 4) + shedPart (x 5))
    (t : Zone → Nat) (h : t = targetOf a total shed (total - shed)) :
    (∀ i, t (x i) ≤ (x i).demand) ∧ t (x 0) + t (x 1) + t (x 2) + t (x 3) + t (x 4) + t (x 5) ≤ a := by
  subst h
  let g : Zone → Nat := fun z => if z.config.sheddable then 0 else z.demand
  have split : ∀ i, shedPart (x i) + g (x i) = (x i).demand := by
    intro i
    simp only [shedPart, g]
    split <;> omega
  have s0 := split 0
  have s1 := split 1
  have s2 := split 2
  have s3 := split 3
  have s4 := split 4
  have s5 := split 5
  by_cases h1 : total ≤ a
  · simp only [targetOf, h1, if_true]
    exact ⟨fun _ => Nat.le_refl _, by omega⟩
  simp only [targetOf, h1, if_false]
  by_cases h2 : total - a ≤ shed
  · simp only [h2, if_true]
    have e : ∀ i, (if (x i).config.sheddable = true then (x i).demand * (shed - (total - a)) / shed
        else (x i).demand) = shedPart (x i) * (shed - (total - a)) / shed + g (x i) := by
      intro i
      simp only [shedPart, g]
      split <;> simp
    refine ⟨fun i => ?_, ?_⟩
    · split
      · apply Nat.div_le_of_le_mul
        rw [Nat.mul_comm shed]
        exact Nat.mul_le_mul_left _ (by omega)
      · exact Nat.le_refl _
    · simp only [e]
      have := shares_le (shedPart (x 0)) (shedPart (x 1)) (shedPart (x 2)) (shedPart (x 3)) (shedPart (x 4))
        (shedPart (x 5)) (shed - (total - a)) shed (by omega)
      omega
  · simp only [h2, if_false]
    have e : ∀ i, (if (x i).config.sheddable = true then 0 else (x i).demand * a / (total - shed))
        = g (x i) * a / (total - shed) := by
      intro i
      simp only [g]
      split <;> simp
    refine ⟨fun i => ?_, ?_⟩
    · split
      · exact Nat.zero_le _
      · apply Nat.div_le_of_le_mul
        rw [Nat.mul_comm (total - shed)]
        exact Nat.mul_le_mul_left _ (by omega)
    · simp only [e]
      exact shares_le _ _ _ _ _ _ a (total - shed) (by omega)

/-- The zones of a recomputation, as the clamp takes them. -/
theorem newTarget_clamp (s : State) :
    (∀ z : ZoneId, s.newTarget z ≤ demandOf s.panel s.shockFader s.panel.zones[z]) ∧
      s.newTarget 0 + s.newTarget 1 + s.newTarget 2 + s.newTarget 3 + s.newTarget 4 + s.newTarget 5 ≤ s.effective :=
  clamp (fun i => { s.panel.zones[i] with demand := demandOf s.panel s.shockFader s.panel.zones[i] }) _ _ _
    (by rw [sumZones_eq]; simp [Panel.withDemands] <;> rfl) (by rw [sumZones_eq]; simp [Panel.withDemands] <;> rfl) _ rfl

/-- With a shock fader of 0 every target and applied drive of a recomputation is 0 (R70, R71). -/
theorem retarget_dark {s : State} (h : s.shockFader = 0) (z : ZoneId) :
    s.retarget.panel.zones[z].target = 0 ∧ s.retarget.panel.zones[z].applied = 0 := by
  have hd : demandOf s.panel s.shockFader s.panel.zones[z] = 0 := by simp [demandOf, h]
  have ht : s.newTarget z = 0 := by
    have := (newTarget_clamp s).1 z
    omega
  rw [retarget_zone]
  simp [ht]

end Sys2Proof.Machine
end

