-- ==== Sys2Proof/Laws/Silence.lean ====
section
/-! SUPPORT. Silence in the roster (R6, R180): an event of the Roster Unit leaves the silent flags of the record as it
has taken them, so that a note that has brought its sender's silent flag leaves nothing to attend to. -/

namespace Sys2Proof.Machine

variable {k : Station} {b : Bool} {s t : State}

/-! ### The flag of a station's entries -/

/-- The entries of a station show one silent flag. -/
def showsSilent (r : Roster) (k : Station) (b : Bool) : Prop := ∀ e ∈ r.entries, e.station = k → e.silent = b

/-- The record shows the silence of a station. -/
def State.shows (s : State) (k : Station) (b : Bool) : Prop := showsSilent s.roster.record k b

theorem State.shows_of_roster (h : s.shows k b) (hr : t.roster = s.roster) : t.shows k b := by
  rw [State.shows, hr]; exact h

theorem State.shows_of_effect {p : Parts} (h : s.shows k b) (e : Effect p s t) (hr : p.roster = false) :
    t.shows k b := State.shows_of_roster h (e.roster hr)

/-- Records whose entries have the same stations and silent flags show the same. -/
theorem showsSilent_of_marks {r r' : Roster} (h : showsSilent r k b)
    (hm : r'.entries.map (fun e => (e.station, e.silent)) = r.entries.map fun e => (e.station, e.silent)) :
    showsSilent r' k b := by
  intro e he hk
  have : (e.station, e.silent) ∈ r'.entries.map fun e => (e.station, e.silent) := List.mem_map_of_mem he
  rw [hm, List.mem_map] at this
  obtain ⟨d, hd, hde⟩ := this
  simp only [Prod.mk.injEq] at hde
  rw [← hde.2]
  exact h d hd (hde.1.trans hk)

theorem mapEntry_shows {r : Roster} {j : Station} {f : Entry → Entry} (h : showsSilent r k b)
    (hf : ∀ e ∈ r.entries, e.station = j → (f e).station = k → (f e).silent = b) : showsSilent (mapEntry r j f) k b := by
  intro e he hk
  simp only [mapEntry, List.mem_map] at he
  obtain ⟨d, hd, rfl⟩ := he
  split at hk
  · rename_i hj
    rw [if_pos hj]
    exact hf d hd hj hk
  · rename_i hj
    rw [if_neg hj]
    exact h d hd hk

/-- A change of entries that keeps stations and silent flags. -/
theorem mapEntry_shows_same {r : Roster} {j : Station} {f : Entry → Entry} (h : showsSilent r k b)
    (hs : ∀ e, (f e).station = e.station) (hm : ∀ e, (f e).silent = e.silent) : showsSilent (mapEntry r j f) k b :=
  mapEntry_shows h fun e he _ hk => (hm e).trans (h e he ((hs e).symm.trans hk))

/-- The record after `sync` shows what the peer table holds. -/
theorem sync_shows (s : State) (k : Station) : (s.sync k).shows k (s.peer k).silent := by
  intro e he hk
  simp only [State.sync, withRecord_roster, mapEntry, List.mem_map] at he
  obtain ⟨d, hd, rfl⟩ := he
  by_cases hj : d.station = k
  · rw [if_pos hj]
  · rw [if_neg hj] at hk; exact absurd hk hj

theorem settleRoster_shows {r : Roster} {j : Station} {q : BaySummary} {m : ShockState} (h : showsSilent r k b) :
    showsSilent (settleRoster r j q m) k b := by
  unfold settleRoster
  split
  · exact h
  · rename_i e he
    split
    · rename_i e' he'
      refine mapEntry_shows h fun _ _ _ hk => ?_
      have hs : e'.silent = e.silent := by
        simp only [settleEntry, Option.map_eq_some_iff] at he'
        obtain ⟨st, -, rfl⟩ := he'
        rfl
      rw [hs]
      exact h e (List.mem_of_find?_eq_some he) ((settleEntry_station he').symm.trans hk)
    · exact fun e he hk => h e (List.mem_filter.mp he).1 hk

theorem giveShares_marks (member : Entry → Bool) (n i : Nat) (l : List Entry) :
    (giveShares member n i l).map (fun e => (e.station, e.silent)) = l.map fun e => (e.station, e.silent) := by
  induction l generalizing i with
  | nil => rfl
  | cons e rest ih =>
    rw [giveShares]
    split <;> simp [ih]

/-- The recomputation keeps stations and silent flags. -/
theorem recomputed_marks (reserve : Nat) (r : Roster) :
    (recomputed reserve r).entries.map (fun e => (e.station, e.silent)) =
      r.entries.map fun e => (e.station, e.silent) := by
  have hc : ∀ l : List Entry, (l.map consequence).map (fun e => (e.station, e.silent)) =
      l.map fun e => (e.station, e.silent) := by
    intro l
    rw [List.map_map]
    refine List.map_congr_left fun e _ => ?_
    simp only [Function.comp, consequence]
    split
    · rfl
    · split <;> rfl
  simp only [recomputed, hc, allocate]
  split
  · rw [List.map_map]; rfl
  · exact giveShares_marks ..

theorem recomputed_shows {reserve : Nat} {r : Roster} (h : showsSilent r k b) : showsSilent (recomputed reserve r) k b :=
  showsSilent_of_marks h (recomputed_marks ..)

/-! ### The Roster Unit's operations -/

/-- What sending and recording may change. -/
abbrev Parts.telling : Parts := { queue := true, console := true, store := true, shock := true }

theorem held_shows (h : s.shows k b) : showsSilent s.roster.held k b := by
  unfold RosterUnit.held
  split
  · refine mapEntry_shows_same h heldLeaving_station fun e => ?_
    unfold heldLeaving
    split <;> rfl
  · exact h

theorem recompute_shows (h : s.shows k b) : s.recompute.shows k b := by
  have u : (s.withUnit fun u =>
      { u with
        record := recomputed s.config.reserve s.roster.held
        slot := u.slot.map fun sl => sl.follow s.roster.held (recomputed s.config.reserve s.roster.held) }).shows
          k b := recomputed_shows (reserve := s.config.reserve) (held_shows h)
  unfold State.recompute
  dsimp only
  split
  · exact State.shows_of_effect u (setCond_effect (p := .telling) (Effect.refl _ _) rfl rfl) rfl
  · exact u

theorem endSlot_shows (h : s.shows k b) : s.endSlot.shows k b := h

theorem sendTo_shows {j : Station} {n : NoteBody} (h : s.shows k b) : (s.sendTo j n).shows k b :=
  State.shows_of_effect h (sendTo_effect (p := .telling) (Effect.refl _ _) rfl rfl) rfl

theorem setCond_shows {c : Condition} (h : s.shows k b) : (s.setCond c).shows k b :=
  State.shows_of_effect h (setCond_effect (p := .telling) (Effect.refl _ _) rfl rfl) rfl

theorem hand_shows {c : RecordContent} (h : s.shows k b) : (s.hand c).shows k b :=
  State.shows_of_effect h (hand_effect (p := .telling) (Effect.refl _ _) rfl rfl rfl) rfl

theorem releaseWithout_shows {r : Roster} {j : Station} {o : Origin} (h : s.shows k b) :
    (s.releaseWithout r j o).shows k b := hand_shows (sendTo_shows h)

theorem tryStart_shows {j : Station} {o : Origin} (h : s.shows k b) : (s.tryStart j o).shows k b := by
  unfold State.tryStart
  split
  · refine State.shows_of_effect (recompute_shows ?_)
      (markHandover_effect (p := .telling) (Effect.refl _ _) rfl) rfl
    exact mapEntry_shows_same h (fun _ => rfl) fun _ => rfl
  · exact sendTo_shows h

theorem serveOne_shows {r : Roster} {w : Waiter} (h : s.shows k b) : (s.serveOne r w).shows k b := by
  unfold State.serveOne
  split
  · exact sendTo_shows h
  · split <;> first | exact sendTo_shows h | exact releaseWithout_shows h | exact tryStart_shows h | exact h

theorem serveList_shows {r : Roster} (h : s.shows k b) : (s.serveList r).shows k b := by
  have go : ∀ n (u : State), u.shows k b → (State.serveFrom r n u).shows k b := by
    intro n
    induction n with
    | zero => exact fun _ h => h
    | succ n ih =>
      intro u h
      rw [State.serveFrom]
      split
      · exact h
      · split
        · exact h
        · refine ih _ (serveOne_shows ?_)
          exact h
  exact go _ _ h

theorem completeHandover_shows {r : Roster} {sl : Slot} {e : EndEvidence} (h : s.shows k b) :
    (s.completeHandover r sl e).shows k b := serveList_shows (recompute_shows (hand_shows (endSlot_shows h)))

theorem restoreLeaving_shows {j : Station} (h : s.shows k b) : (s.restoreLeaving j).shows k b := by
  unfold State.restoreLeaving
  split
  · dsimp only
    have back : (s.withRecord fun r => mapEntry r j fun e => { e with state := .carrying }).shows k b :=
      mapEntry_shows_same h (fun _ => rfl) fun _ => rfl
    split
    · exact settleRoster_shows back
    · exact back
  · exact h

theorem abortHandover_shows {r : Roster} {sl : Slot} {o : SwapOutcome} (h : s.shows k b) :
    (s.abortHandover r sl o).shows k b :=
  serveList_shows (setCond_shows (hand_shows (sendTo_shows
    (recompute_shows (endSlot_shows (restoreLeaving_shows h))))))

theorem loseLeaving_shows {r : Roster} {sl : Slot} (h : s.shows k b) : (s.loseLeaving r sl).shows k b := by
  unfold State.loseLeaving
  split
  · exact completeHandover_shows h
  · exact serveList_shows (hand_shows (recompute_shows (endSlot_shows h)))

theorem trigger_shows {r : Roster} {d : List Station} (h : s.shows k b) : (s.trigger r d).shows k b := by
  unfold State.trigger
  split
  · exact recompute_shows h
  · unfold State.loseTakers
    dsimp only
    split
    · exact abortHandover_shows h
    · exact recompute_shows h

theorem letGoTest_shows (h : s.shows k b) : s.letGoTest.shows k b := by
  unfold State.letGoTest
  split
  · rename_i sl _
    split
    · exact sendTo_shows (j := sl.leaving) (n := .letGo .handover) h
    · exact h
  · exact h

theorem publish_shows (h : s.shows k b) : s.publish.shows k b := by
  refine State.shows_of_effect ?_ (sendAll_effect (p := .telling) (Effect.refl _ _) rfl rfl) rfl
  exact h

/-- An event of the Roster Unit leaves the silent flags as its work leaves them. -/
theorem rosterEvent_shows {w : Roster → State → State} (h : (w s.roster.record s).shows k b) :
    (s.rosterEvent w).shows k b := by
  unfold State.rosterEvent
  dsimp only
  split
  · exact letGoTest_shows (publish_shows h)
  · exact letGoTest_shows h

/-! ### What is left to attend to -/

/-- A roster that shows the silence of the peer table does not lag. -/
theorem lags_of_shows (h : s.shows k (s.peer k).silent) : s.lags k = false := by
  simp only [State.lags, Bool.and_eq_false_iff, List.any_eq_false]
  refine Or.inr fun e he => ?_
  have := h e he
  simp only [Bool.and_eq_true, beq_iff_eq, bne_iff_ne, ne_eq, not_and, Decidable.not_not]
  exact this

/-- An active roster that does not lag shows the silence of the peer table. -/
theorem shows_of_lags (ha : s.rosterActive = true) (h : s.lags k = false) : s.shows k (s.peer k).silent := by
  intro e he hk
  simp only [State.lags, ha, Bool.true_and, List.any_eq_false] at h
  have := h e he
  simp only [Bool.and_eq_true, beq_iff_eq, bne_iff_ne, ne_eq, not_and, Decidable.not_not] at this
  exact this hk

theorem lags_inactive (h : s.rosterActive = false) : s.lags k = false := by simp [State.lags, h]

theorem takeSilence_shown {r : Roster} (h : s.lags k = false) : s.takeSilence r k = s := by
  simp [State.takeSilence, h]

theorem showSilence_shown (h : s.lags k = false) : s.showSilence k = s := by simp [State.showSilence, h]

/-- A note whose sender's silence the record shows is an event of its own work. -/
theorem noteEvent_shown {w : Roster → State → State} (h : s.lags k = false) : s.noteEvent k w = s.rosterEvent w := by
  simp [State.noteEvent, State.rosterEvent, showSilence_shown h]

theorem quietEvent_shown {w : Roster → State → State} (h : s.lags k = false) :
    s.quietEvent k w = s.rosterEvent w := by
  simp [State.quietEvent, State.rosterEvent, takeSilence_shown h]

theorem rosterSilence_shown (h : s.lags k = false) : s.rosterSilence k = s := by simp [State.rosterSilence, h]

/-- A roster that does not lag has nothing to take over from the peer table. -/
theorem sync_shown (h : s.shows k (s.peer k).silent) : s.sync k = s := by
  have : (mapEntry s.roster.record k fun e => { e with silent := (s.peer k).silent }) = s.roster.record := by
    have : s.roster.record.entries.map
        (fun e => if e.station = k then { e with silent := (s.peer k).silent } else e) = s.roster.record.entries := by
      refine (List.map_congr_left fun e he => ?_).trans (List.map_id _)
      split
      · rename_i hk
        rw [← h e he hk]
        rfl
      · rfl
    simp only [mapEntry, this]
  simp only [State.sync, State.withRecord, State.withUnit, this]

/-- A station that is no LID has no light to recompute. -/
theorem relight_idle (h : s.plays .lid = false) : s.relight k = s := by
  unfold State.relight
  split <;> simp [h]

/-- Nothing is left to attend to where the roster shows the silence and no light follows it. -/
theorem attend_shown (hl : t.plays .lid = false) (h : t.lags k = false) : s.attend k t = t := by
  unfold State.attend
  split
  · rw [rosterSilence_shown h, relight_idle hl]
  · rfl

/-- A sender that was not silent leaves nothing to attend to. -/
theorem attend_awake (h : (s.peer k).silent = false) : s.attend k t = t := by simp [State.attend, h]

theorem hears_awake (h : (s.peer k).silent = false) : s.hears k = s.heard k := attend_awake h

/-- A note of another station than the console, or of one that was not silent, refreshes the peer entry alone. -/
theorem heard_peer (h : k ≠ 0 ∨ (s.peer k).silent = false) :
    s.heard k = s.setPeer k { s.peer k with seen := true, time := 0, silent := false } := by
  unfold State.heard
  rcases h with h | h
  · simp [h]
  · simp [h]

/-! ### The notes of a bay -/

section Taken
variable (ha : s.rosterActive = true)
include ha

omit ha in
/-- Silence that an event takes is shown by the record. -/
theorem takeSilence_shows {t : State} {r : Roster} (ht : t.rosterActive = true) :
    (t.takeSilence r k).shows k (t.peer k).silent := by
  unfold State.takeSilence
  split
  · exact trigger_shows (sync_shows t k)
  · rename_i hn
    exact shows_of_lags ht (by simpa using hn)

/-- A flag that is copied is shown by the record. -/
theorem showSilence_shows : (s.showSilence k).shows k (s.peer k).silent := by
  unfold State.showSilence
  split
  · exact sync_shows s k
  · rename_i hn
    exact shows_of_lags ha (by simpa using hn)

omit ha in
@[simp] theorem showSilence_peer : (s.showSilence k).peer k = s.peer k := by
  unfold State.showSilence
  split <;> rfl

/-- A note leaves its sender's flag as its work leaves it, which finds it as the peer table holds it. -/
theorem noteEvent_shows {w : Roster → State → State}
    (hw : ∀ u, u.shows k (s.peer k).silent → u.peer k = s.peer k →
      (w s.roster.record u).shows k (s.peer k).silent) :
    (s.noteEvent k w).shows k (s.peer k).silent :=
  rosterEvent_shows (hw _ (showSilence_shows ha) showSilence_peer)

/-- The same for a note that is no trigger. -/
theorem quietEvent_shows {w : Roster → State → State}
    (hw : ∀ u, u.shows k (s.peer k).silent → (w s.roster.record u).shows k (s.peer k).silent) :
    (s.quietEvent k w).shows k (s.peer k).silent := rosterEvent_shows (hw _ (takeSilence_shows ha))

/-- A note of a station that has an entry leaves its flag as its work leaves it; a station without an entry shows any
silence. -/
theorem onEntry_shows {w : Roster → State → State}
    (hw : ∀ u, u.shows k (s.peer k).silent → (w s.roster.record u).shows k (s.peer k).silent) :
    (s.onEntry k w).shows k (s.peer k).silent := by
  unfold State.onEntry
  split
  · exact noteEvent_shows ha fun u hu _ => hw u hu
  · rename_i hn
    simp only [ha, Bool.true_and, Bool.not_eq_true, Option.isSome_eq_false_iff, Option.isNone_iff_eq_none] at hn
    intro e he hk
    have := List.find?_eq_none.mp hn e he
    simp [hk] at this

omit ha in
theorem noteState_shows {r : Roster} {st : EntryState} (h : showsSilent r k b) : showsSilent (noteState r k st) k b :=
  mapEntry_shows_same h (fun _ => rfl) fun _ => rfl

theorem rosterLost_shows : (s.rosterLost k).shows k (s.peer k).silent := by
  refine onEntry_shows ha fun u hu => ?_
  dsimp only
  have m : (u.withRecord fun r => noteState r k .lost).shows k (s.peer k).silent := noteState_shows hu
  split
  · exact loseLeaving_shows m
  · exact trigger_shows m

theorem rosterFault_shows : (s.rosterFault k).shows k (s.peer k).silent := by
  refine onEntry_shows ha fun u hu => ?_
  dsimp only
  have m : (u.withRecord fun r => noteState r k .faulted).shows k (s.peer k).silent := noteState_shows hu
  split
  · split
    · exact trigger_shows m
    · exact abortHandover_shows m
  · exact trigger_shows m

theorem rosterGone_shows : (s.rosterGone k).shows k (s.peer k).silent := by
  refine onEntry_shows ha fun u hu => ?_
  dsimp only
  have m : (u.withRecord fun r => noteState r k .freed).shows k (s.peer k).silent := noteState_shows hu
  split
  · exact completeHandover_shows m
  · exact trigger_shows m

theorem rosterTaken_shows : (s.rosterTaken k).shows k (s.peer k).silent :=
  onEntry_shows ha fun _ hu => trigger_shows hu

theorem rosterSilence_shows : (s.rosterSilence k).shows k (s.peer k).silent := by
  unfold State.rosterSilence
  split
  · exact rosterEvent_shows (takeSilence_shows ha)
  · rename_i hn
    exact shows_of_lags ha (by simpa using hn)

theorem rosterDrained_shows : (s.rosterDrained k).shows k (s.peer k).silent := by
  unfold State.rosterDrained
  rw [if_pos ha]
  refine quietEvent_shows ha fun u hu => ?_
  unfold State.markDrained
  split <;> exact hu

omit ha in
theorem takeAsk_shows {r : Roster} {o : Origin} (h : s.shows k b) : (s.takeAsk r k o).shows k b := by
  unfold State.takeAsk
  split
  · exact sendTo_shows h
  · repeat' split
    all_goals first | exact sendTo_shows h | exact releaseWithout_shows h | exact tryStart_shows h | exact h

theorem rosterAsk_shows {o : Origin} (hp : s.publishing = true) :
    (s.rosterAsk k o).shows k (s.peer k).silent := by
  unfold State.rosterAsk
  rw [if_pos hp]
  exact quietEvent_shows ha fun _ hu => takeAsk_shows hu

omit ha in
theorem insertEntry_shows {e : Entry} {l : List Entry} (h : ∀ f ∈ l, f.station = k → f.silent = b)
    (he : e.station = k → e.silent = b) : ∀ f ∈ insertEntry e l, f.station = k → f.silent = b := by
  intro f hf hk
  rcases mem_insertEntry hf with rfl | hf
  · exact he hk
  · exact h f hf hk

omit ha in
theorem enterBay_shows {t : State} {r : Roster} {q : BaySummary} {m : ShockState}
    (h : t.shows k (t.peer k).silent) : (t.enterBay r k q m).shows k (t.peer k).silent := by
  unfold State.enterBay
  split
  · exact h
  · split
    · exact setCond_shows h
    · exact trigger_shows (insertEntry_shows h fun _ => rfl)

omit ha in
theorem followBay_shows {t : State} {r : Roster} {e : Entry} {q : BaySummary} {m : ShockState} {n : Bool}
    (h : t.shows k b) : (t.followBay r k e q m n).shows k b := by
  have moved : (t.withRecord fun r => settleRoster r k q m).shows k b := settleRoster_shows h
  have plain {c : Bool} : (if c = true then (t.withRecord fun r => settleRoster r k q m).trigger r
      else t.withRecord fun r => settleRoster r k q m).shows k b := by
    split
    · exact trigger_shows moved
    · exact moved
  unfold State.followBay
  dsimp only
  split
  · exact plain
  · split
    · exact loseLeaving_shows moved
    · split
      · exact completeHandover_shows (noteState_shows moved)
      · split
        · exact abortHandover_shows moved
        · exact plain

theorem rosterBeacon_shows {q : BaySummary} {m : ShockState} :
    (s.rosterBeacon k q m).shows k (s.peer k).silent := by
  unfold State.rosterBeacon
  rw [if_pos ha]
  refine noteEvent_shows ha fun u hu hp => ?_
  dsimp only
  split
  · rw [← hp] at hu ⊢
    exact enterBay_shows hu
  · rename_i e _
    have f := followBay_shows (r := s.roster.record) (e := e) (q := q) (m := m)
      (n := s.lags k) hu
    split
    · exact f
    · exact f

/-- After an event that leaves the roster showing its sender's silence, a BASE has nothing left to attend to. -/
theorem attend_taken {p : Parts} {u : State} (h : Effect p s t) (hl : p.link = false)
    (hs : t.shows k (s.peer k).silent) : u.attend k t = t := by
  have hp : t.peer k = s.peer k := by
    have := congrArg Link.peers (h.link hl)
    simp only [Link.rest] at this
    simp only [State.peer, this]
  refine attend_shown ?_ (lags_of_shows (by rw [hp]; exact hs))
  simp only [State.rosterActive, State.plays, State.awake, State.active, Bool.and_eq_true, beq_iff_eq] at ha
  simp [State.plays, h.sys, ha.1.2]

end Taken

end Sys2Proof.Machine
end

