-- ==== Sys2Proof/Laws/Episodes.lean ====
section
/-! SUPPORT. How an episode starts at a station: what the blocks do when the shock state leaves CALM (R103, R104,
R115). -/

namespace Sys2Proof.Machine

/-! ### The ending of a stream -/

/-- The ending of the stream in progress, if any. -/
def State.streamEnding (s : State) : Option (Option StreamOutcome) := s.console.stream.map Stream.ending

@[simp] theorem attentionTest_ending (s : State) : s.attentionTest.streamEnding = s.streamEnding := by
  unfold State.attentionTest
  split
  · split <;> rfl
  · rfl

@[simp] theorem setCond_ending (s : State) (c : Condition) : (s.setCond c).streamEnding = s.streamEnding := by
  unfold State.setCond
  split
  · rfl
  · rw [attentionTest_ending]; rfl

theorem displaced_ending (c : Console) (n : Note) :
    (c.displaced n).stream.map Stream.ending = c.stream.map Stream.ending := by
  unfold Console.displaced
  split
  · split
    · rename_i st h
      split
      · rw [h]; rfl
      · rfl
    · rfl
  · rfl
  · split <;> rfl
  · rfl

@[simp] theorem send_ending (s : State) (n : Note) : (s.send n).streamEnding = s.streamEnding := by
  unfold State.send
  split
  · split
    · rfl
    · rw [setCond_ending]; exact displaced_ending _ _
    · exact setCond_ending _ _
  · rfl

theorem boostTest_ending (s : State) : s.boostTest.streamEnding = s.streamEnding := by
  unfold State.boostTest
  dsimp only
  split
  · rw [setCond_ending]; rfl
  · rfl

@[simp] theorem settlePanel_ending (t u : State) : (t.settlePanel u).streamEnding = t.streamEnding := by
  unfold State.settlePanel
  dsimp only
  have left : (if (t.supply.stage == .off && t.panel.anyTarget && !u.panel.anyTarget) = true then
      (t.withSupply fun b => { b with stage := t.entryStage }).retarget else t).streamEnding = t.streamEnding := by
    split <;> rfl
  generalize (if (t.supply.stage == .off && t.panel.anyTarget && !u.panel.anyTarget) = true then
      (t.withSupply fun b => { b with stage := t.entryStage }).retarget else t) = v at left ⊢
  rw [← left]
  split
  · exact boostTest_ending _
  · rfl

theorem panelEvent_ending (s : State) (w : State → State) (hw : (w s).console = s.console) :
    (s.panelEvent w).streamEnding = s.streamEnding := by
  have : (w s).retarget.streamEnding = s.streamEnding := congrArg (fun c : Console => c.stream.map Stream.ending) hw
  rw [← this]
  exact settlePanel_ending _ _

theorem overtakeTest_ending (s : State) (f : TestTrigger → Bool) :
    (s.overtakeTest f).streamEnding = s.streamEnding := by
  have h : s.endHold.streamEnding = s.streamEnding := panelEvent_ending s _ rfl
  unfold State.overtakeTest
  split
  · split
    · dsimp only
      split
      · exact (send_ending _ _).trans h
      · exact h
    · rfl
  · rfl

/-! ### The leaving of CALM -/

/-- What the blocks change at the leaving of CALM. -/
abbrev Parts.leaving : Parts :=
  { queue := true, console := true, panel := true, supply := true, roster := true, coord := true }

theorem leaveCalm_alone (s : State) : Effect Parts.leaving s s.leaveCalm := by
  have cut := cutStream_effect (p := Parts.leaving) (o := .shockCut) (Effect.refl _ s) rfl
  unfold State.leaveCalm
  dsimp only
  split
  · exact panelEvent_effect (overtakeTest_effect cut rfl rfl rfl rfl) rfl rfl rfl rfl rfl
  · split
    · exact suspendSlot_effect (withCoord_effect cut rfl) rfl
    · exact cut
  · exact cut
  · exact cut

theorem suspendSlot_console (s : State) : s.suspendSlot.console = s.console := by
  unfold State.suspendSlot
  split
  · split <;> rfl
  · rfl

/-- A running stream ends SHOCK_CUT (R199). -/
theorem leaveCalm_stream (s : State) (h : s.streamEnding = some none) :
    s.leaveCalm.streamEnding = some (some .shockCut) := by
  have cut : (s.cutStream .shockCut).streamEnding = some (some .shockCut) := by
    simp only [State.streamEnding, Option.map_eq_some_iff] at h
    obtain ⟨x, hx, he⟩ := h
    simp [State.cutStream, State.streamEnding, hx, he]
  unfold State.leaveCalm
  dsimp only
  generalize s.cutStream .shockCut = t at cut ⊢
  split
  · exact (panelEvent_ending _ id rfl).trans ((overtakeTest_ending _ _).trans cut)
  · split
    · have : t.openCoordinator.console = t.console := suspendSlot_console _
      simp only [State.streamEnding, this]
      exact cut
    · exact cut
  · exact cut
  · exact cut

/-- An event of the panel under the shock hold leaves it dark (R70). -/
theorem panelEvent_dark {s : State} {w : State → State} (hr : (w s).sys.role = .lid)
    (h : (w s).shock.state ≠ .calm) (z : ZoneId) :
    (s.panelEvent w).panel.zones[z].target = 0 ∧ (s.panelEvent w).panel.zones[z].applied = 0 := by
  obtain ⟨v, _, hy, hv, _, _, _, e⟩ := panelEvent_zones s w
  rw [e]
  refine retarget_dark ?_ z
  simp [State.shockFader, State.shockHold, hy, hr, hv, h]

theorem overtakeTest_test (s : State) (f : TestTrigger → Bool) (x : StringTest) (hx : s.supply.test = some x)
    (hf : f x.trigger = true) : (s.overtakeTest f).supply.test = none := by
  have he : s.endHold.supply.test = none := (panelEvent_light s _).test.trans rfl
  simp only [State.overtakeTest, hx, hf, if_true]
  split
  · have := (refuse_effect (p := { queue := true, console := true }) (k := .testStrings) (r := .held) (v := .none)
      (Effect.refl _ s.endHold) rfl rfl).supply rfl
    rw [this]; exact he
  · exact he

/-- The blocks at the leaving of CALM, from a state whose shock state has left it. -/
structure Leaves (s t : State) : Prop where
  stream : s.streamEnding = some none → t.streamEnding = some (some .shockCut)
  dark : s.sys.role = .lid → ∀ z : ZoneId, t.panel.zones[z].target = 0 ∧ t.panel.zones[z].applied = 0
  overtaken : s.sys.role = .lid → ∀ x, s.supply.test = some x → x.trigger ≠ .checking → t.supply.test = none
  opened : s.coordinates = true → t.coord =
    { state := .opened, count := s.shock.count, participants := s.participantsNow, extras := [], closing := none }
  suspended : s.coordinates = true → ∀ sl, s.roster.slot = some sl → sl.phase ≠ .suspended →
    t.roster.slot = some { sl with phase := .suspended, suspensions := satUp 255 sl.suspensions }
      ∧ t.roster.handoverTimer = none
  record : t.roster.record = s.roster.record ∧ t.supply.results = s.supply.results

theorem suspendSlot_record (s : State) : s.suspendSlot.roster.record = s.roster.record := by
  unfold State.suspendSlot
  split
  · split <;> rfl
  · rfl

theorem suspendSlot_rest (s : State) : s.suspendSlot = { s with roster := s.suspendSlot.roster } := by
  unfold State.suspendSlot
  split
  · split <;> rfl
  · rfl

theorem cutStream_rest (s : State) (o : StreamOutcome) :
    s.cutStream o = { s with console := (s.cutStream o).console } := by
  unfold State.cutStream
  split
  · split <;> rfl
  · rfl

theorem overtakeTest_results (s : State) (f : TestTrigger → Bool) :
    (s.overtakeTest f).supply.results = s.supply.results := by
  have he : s.endHold.supply.results = s.supply.results := (panelEvent_light s _).results.trans rfl
  unfold State.overtakeTest
  split
  · split
    · dsimp only
      split
      · have := (refuse_effect (p := { queue := true, console := true }) (k := .testStrings) (r := .held) (v := .none)
          (Effect.refl _ s.endHold) rfl rfl).supply rfl
        rw [this]; exact he
      · exact he
    · rfl
  · rfl

theorem leaveCalm_leaves (s : State) (h : s.shock.state ≠ .calm) : Leaves s s.leaveCalm := by
  have hc := cutStream_rest s .shockCut
  refine ⟨leaveCalm_stream s, ?_, ?_, ?_, ?_, ?_⟩
  · intro hr z
    simp only [State.leaveCalm, hr]
    have e := overtakeTest_effect (p := { queue := true, console := true, panel := true, supply := true })
      (f := fun t => t != .checking) (Effect.refl _ (s.cutStream .shockCut)) rfl rfl rfl rfl
    refine panelEvent_dark ?_ ?_ z
    · simp only [id, e.sys]
      rw [hc]
      exact hr
    · simp only [id, e.shock rfl]
      rw [hc]
      exact h
  · intro hr x hx hn
    simp only [State.leaveCalm, hr]
    refine (panelEvent_light _ id).test.trans (overtakeTest_test _ _ x ?_ (by simpa using hn))
    rw [hc]
    exact hx
  · intro ho
    have hr : s.sys.role = .base := by
      simp only [State.coordinates, State.rosterActive, State.plays, Bool.and_eq_true, beq_iff_eq] at ho
      exact ho.1.2
    simp only [State.leaveCalm, hr]
    have : (s.cutStream .shockCut).coordinates = true := by rw [hc]; exact ho
    rw [if_pos this]
    unfold State.openCoordinator
    rw [suspendSlot_rest, hc]
    rfl
  · intro ho sl hs hp
    have hr : s.sys.role = .base := by
      simp only [State.coordinates, State.rosterActive, State.plays, Bool.and_eq_true, beq_iff_eq] at ho
      exact ho.1.2
    simp only [State.leaveCalm, hr]
    have : (s.cutStream .shockCut).coordinates = true := by rw [hc]; exact ho
    rw [if_pos this, hc]
    simp [State.openCoordinator, State.suspendSlot, State.withCoord, hs, hp, State.withUnit]
  · have h1 : (s.cutStream .shockCut).roster = s.roster := by rw [hc]
    have h2 : (s.cutStream .shockCut).supply = s.supply := by rw [hc]
    unfold State.leaveCalm
    dsimp only
    generalize s.cutStream .shockCut = t at h1 h2 ⊢
    rw [← h1, ← h2]
    split
    · have e := (panelEvent_effect (p := { queue := true, console := true, panel := true, supply := true }) (w := id)
        (overtakeTest_effect (f := fun t => t != .checking) (Effect.refl _ t) rfl rfl rfl rfl) rfl rfl rfl rfl
        rfl).roster rfl
      exact ⟨congrArg _ e, (panelEvent_light _ id).results.trans (overtakeTest_results _ _)⟩
    · split
      · refine ⟨suspendSlot_record _, ?_⟩
        unfold State.openCoordinator
        rw [suspendSlot_rest]
        rfl
      · exact ⟨rfl, rfl⟩
    · exact ⟨rfl, rfl⟩
    · exact ⟨rfl, rfl⟩

theorem participantsNow_peers {s t : State} (h : t.link.peers = s.link.peers) :
    t.participantsNow = s.participantsNow := by
  simp only [State.participantsNow, State.peer, h]

theorem coordinates_eq {s t : State} (hs : t.sys = s.sys) (hp : t.pins = s.pins)
    (hl : t.link.deferred = s.link.deferred) : t.coordinates = s.coordinates := by
  simp only [State.coordinates, State.rosterActive, State.plays, State.awake, State.active, hs, hp, hl]

/-- An episode that starts in CALM, from the state its source has made: the source changes the Shock Monitor, the
outgoing queue, the drive of LA and the Console Service alone. -/
theorem leaveCalm_leavesCalm {s u : State} {source : Source} {station : Option Station} {start : Nat}
    (hu : u = { s with
      shock := (s.beginEpisode source station start).shock
      link := { s.link with queue := u.link.queue, laDrive := u.link.laDrive }, console := u.console })
    (he : u.streamEnding = s.streamEnding) : LeavesCalm s u.leaveCalm source station := by
  have hk : u.shock = (s.beginEpisode source station start).shock := by rw [hu]
  have hn : u.shock.state ≠ .calm := by rw [hk]; simp [State.beginEpisode, State.withShock]
  have l := leaveCalm_leaves u hn
  have a := leaveCalm_alone u
  have hs : u.sys = s.sys := by rw [hu]
  have hp : u.pins = s.pins := by rw [hu]
  have hl : u.link.peers = s.link.peers := by rw [hu]
  have hd : u.link.deferred = s.link.deferred := by rw [hu]
  have hr : u.roster = s.roster := by rw [hu]
  have hb : u.supply = s.supply := by rw [hu]
  have hc := coordinates_eq hs hp hd
  have ht : u.leaveCalm.shock = (s.beginEpisode source station start).shock := (a.shock rfl).trans hk
  refine
    { state := by rw [ht]; rfl, count := by rw [ht]; rfl, window := by rw [ht]; rfl
      started := by rw [ht]; exact ⟨_, rfl, rfl, rfl, rfl, rfl, rfl, rfl, rfl, rfl⟩
      stream := ?_, dark := fun e => l.dark (by rw [hs]; exact e)
      overtaken := fun e x hx => l.overtaken (by rw [hs]; exact e) x (by rw [hb]; exact hx)
      opened := ?_, suspended := fun e sl hx => l.suspended (by rw [hc]; exact e) sl (by rw [hr]; exact hx)
      kept := ?_, record := ⟨l.record.1.trans (by rw [hr]), l.record.2.trans (by rw [hb]), by rw [ht]; rfl⟩ }
  · intro x hx hn
    have := l.stream (by rw [he]; simp [State.streamEnding, hx, hn])
    simpa [State.streamEnding] using this
  · intro e
    have := l.opened (by rw [hc]; exact e)
    rw [this]
    exact ⟨rfl, by rw [hk]; rfl, rfl, participantsNow_peers hl⟩
  · refine State.eq_of_fields (a.pending.trans (by rw [hu])) (a.sys.trans hs) (a.pins.trans hp)
      (a.config.trans (by rw [hu])) ?_ rfl ((a.image rfl).trans (by rw [hu])) ((a.bay rfl).trans (by rw [hu])) rfl rfl
      rfl rfl ((a.store rfl).trans (by rw [hu])) ((a.flash rfl).trans (by rw [hu])) rfl
      ((a.free rfl).trans (by rw [hu]))
    have hrest : u.link.rest = s.link.rest := by rw [hu]; rfl
    exact Link.eq_of_rest (m := { s.link with laDrive := u.leaveCalm.link.laDrive }) ((a.link rfl).trans hrest) rfl

/-- A remote fall in CALM (R104, R115). -/
theorem remoteFall_leavesCalm (s : State) (station : Option Station) :
    LeavesCalm s (s.remoteFall station) .remote station :=
  leaveCalm_leavesCalm (start := s.sys.clock) rfl rfl

/-- An own fall in CALM (R103, R115). -/
theorem ownFall_leavesCalm (s : State) : LeavesCalm s s.ownFall .own none := by
  have e := sendAll_effect (p := { queue := true, console := true })
    (b := .fall (countUp s.shock.count) s.config.fallTime)
    (Effect.refl _ ((s.beginEpisode .own none (s.sys.clock - s.config.fallTime)).driveLa true)) rfl rfl
  refine leaveCalm_leavesCalm (start := s.sys.clock - s.config.fallTime) ?_ ?_
  · refine State.eq_of_fields e.pending e.sys e.pins e.config ?_ (e.roster rfl) (e.image rfl) (e.bay rfl)
      (e.panel rfl) (e.supply rfl) (e.shock rfl) (e.coord rfl) (e.store rfl) (e.flash rfl) rfl (e.free rfl)
    exact Link.eq_of_rest (m := { s.link with laDrive := s.beginOwn.link.laDrive }) (e.link rfl) rfl
  · exact send_ending _ _

/-- An own fall drives LA, and queues FALL unless urgent notes fill the queue (R103). -/
theorem ownFall_tells (s : State) (h : s.awake = true) : s.ownFall.link.laDrive = true ∧
    ∀ n : Note, n = { target := .all, body := .fall (countUp s.shock.count) s.config.fallTime } →
      placeNote s.link.queue n ≠ .refused → n ∈ s.ownFall.link.queue := by
  have a := leaveCalm_alone s.beginOwn
  refine ⟨?_, fun n hn hq => ?_⟩
  · refine (a.line rfl).trans ?_
    exact (sendAll_effect (p := { queue := true, console := true }) (Effect.refl _ _) rfl rfl).line rfl
  · refine a.urgent n (by rw [hn]; rfl) ?_
    subst hn
    refine send_urgent ?_ rfl hq
    simp only [State.awake, Bool.and_eq_true, Bool.or_eq_true, beq_iff_eq] at h
    have ha := h.1
    simp only [State.active, Bool.and_eq_true] at ha
    rcases h.2 with hp | hp <;> simp [State.takesKind, State.driveLa, State.beginEpisode, State.withShock, hp, Note.kind,
      NoteBody.kind, State.active, ha]

/-! ### An episode that a note of a silent station starts (R104, R180) -/

/-- A light that follows the end of its image's silence stays dark under the shock hold. -/
theorem LeavesCalm.relight {source : Source} {station : Option Station} {k : Station} {s t : State}
    (l : LeavesCalm s t source station) : LeavesCalm s (t.relight k) source station := by
  unfold State.relight
  split
  · split
    · rename_i hp
      simp only [State.plays, Bool.and_eq_true, beq_iff_eq] at hp
      have e := panelEvent_effect (p := { queue := true, console := true, panel := true, supply := true }) (w := id)
        (Effect.refl _ t) rfl rfl rfl rfl rfl
      have hk := e.shock rfl
      have hc := e.coord rfl
      have hr := e.roster rfl
      refine
        { state := by rw [hk]; exact l.state, count := by rw [hk]; exact l.count, window := by rw [hk]; exact l.window
          started := by rw [hk]; exact l.started
          stream := ?_
          dark := fun _ z => panelEvent_dark hp.1.2 (by simp [l.state]) z
          overtaken := fun a x hx hn => (panelEvent_light t id).test.trans (l.overtaken a x hx hn)
          opened := by rw [hc]; exact l.opened
          suspended := by rw [hr]; exact l.suspended
          kept := ?_
          record := by
            rw [hr, hk]
            exact ⟨l.record.1, (panelEvent_light t id).results.trans l.record.2.1, l.record.2.2⟩ }
      · intro x hx hn
        obtain ⟨y, hy, he⟩ := l.stream x hx hn
        have : (t.panelEvent id).streamEnding = some (some .shockCut) := by
          rw [panelEvent_ending t id rfl, State.streamEnding, hy, Option.map_some, he]
        simpa [State.streamEnding] using this
      · have h := l.kept
        refine State.eq_of_fields (e.pending.trans (by rw [h])) (e.sys.trans (by rw [h])) (e.pins.trans (by rw [h]))
          (e.config.trans (by rw [h])) ?_ rfl ((e.image rfl).trans (by rw [h])) ((e.bay rfl).trans (by rw [h])) rfl rfl
          rfl rfl ((e.store rfl).trans (by rw [h])) ((e.flash rfl).trans (by rw [h])) rfl
          ((e.free rfl).trans (by rw [h]))
        exact Link.eq_of_rest (m := { s.link with laDrive := (t.panelEvent id).link.laDrive })
          ((e.link rfl).trans (by rw [h]; rfl)) rfl
    · exact l
  · exact l

/-- An episode that has started stays so when its note's sender is attended to. -/
theorem LeavesCalm.attend {source : Source} {station : Option Station} {k : Station} {s t u : State}
    (l : LeavesCalm s t source station) (hl : t.lags k = false) : LeavesCalm s (u.attend k t) source station := by
  unfold State.attend
  split
  · rw [rosterSilence_shown hl]
    exact l.relight
  · exact l

end Sys2Proof.Machine
end

