-- ==== Sys2Proof/Laws/PerInstr.lean ====
section
/-! SUPPORT. Laws of the commands as syntax, one lemma for each constructor: which commands carry a note, and that
a note moves no line and starts no part. -/

namespace Sys2Proof.Laws.Shape

open Sys2Proof Sys2Proof.Machine

/-- No word spells a command, a command that carries a note moves no line of the part and is no start, and a query or a
store operation of the console is a note. -/
def Statement (c : Instr) : Prop :=
  (∀ nbits w, decodeTableWord nbits w ≠ some c) ∧
  ((noteOf c).isSome = true → movesPins c = false ∧ ofStart c = false) ∧
  ((topicOf c).isSome = true ∨ (storeOpOf c).isSome = true → (noteOf c).isSome = true)

theorem powerOnReset : ∀ a0 a1, Statement (.powerOnReset a0 a1) :=
  fun _ _ => ⟨nofun, nofun, fun h => h.elim nofun nofun⟩

theorem pinReset : Statement .pinReset :=
  ⟨nofun, nofun, fun h => h.elim nofun nofun⟩

theorem enterListen : Statement .enterListen :=
  ⟨nofun, nofun, fun h => h.elim nofun nofun⟩

theorem enterRunning : Statement .enterRunning :=
  ⟨nofun, nofun, fun h => h.elim nofun nofun⟩

theorem alertLineChange : ∀ a0, Statement (.alertLineChange a0) :=
  fun _ => ⟨nofun, nofun, fun h => h.elim nofun nofun⟩

theorem noteStart : Statement .noteStart :=
  ⟨nofun, nofun, fun h => h.elim nofun nofun⟩

theorem noteWithdraw : Statement .noteWithdraw :=
  ⟨nofun, nofun, fun h => h.elim nofun nofun⟩

theorem noteSent : Statement .noteSent :=
  ⟨nofun, nofun, fun h => h.elim nofun nofun⟩

theorem noteGarbled : ∀ a0 a1, Statement (.noteGarbled a0 a1) :=
  fun _ _ => ⟨nofun, fun _ => ⟨rfl, rfl⟩, fun h => h.elim nofun nofun⟩

theorem noteNotConsumed : ∀ a0 a1 a2, Statement (.noteNotConsumed a0 a1 a2) :=
  fun _ _ _ => ⟨nofun, fun _ => ⟨rfl, rfl⟩, fun h => h.elim nofun nofun⟩

theorem beaconTimer : Statement .beaconTimer :=
  ⟨nofun, nofun, fun h => h.elim nofun nofun⟩

theorem peerSilent : ∀ a0, Statement (.peerSilent a0) :=
  fun _ => ⟨nofun, nofun, fun h => h.elim nofun nofun⟩

theorem beacon : ∀ a0 a1 a2, Statement (.beacon a0 a1 a2) :=
  fun _ _ _ => ⟨nofun, nofun, fun h => h.elim nofun nofun⟩

theorem fall : ∀ a0 a1 a2 a3, Statement (.fall a0 a1 a2 a3) :=
  fun _ _ _ _ => ⟨nofun, fun _ => ⟨rfl, rfl⟩, fun _ => rfl⟩

theorem impact : ∀ a0 a1 a2 a3 a4 a5, Statement (.impact a0 a1 a2 a3 a4 a5) :=
  fun _ _ _ _ _ _ => ⟨nofun, fun _ => ⟨rfl, rfl⟩, fun _ => rfl⟩

theorem lost : ∀ a0 a1, Statement (.lost a0 a1) :=
  fun _ _ => ⟨nofun, fun _ => ⟨rfl, rfl⟩, fun _ => rfl⟩

theorem fault : ∀ a0 a1 a2, Statement (.fault a0 a1 a2) :=
  fun _ _ _ => ⟨nofun, fun _ => ⟨rfl, rfl⟩, fun _ => rfl⟩

theorem calm : ∀ a0 a1 a2 a3 a4 a5, Statement (.calm a0 a1 a2 a3 a4 a5) :=
  fun _ _ _ _ _ _ => ⟨nofun, fun _ => ⟨rfl, rfl⟩, fun h => h.elim nofun nofun⟩

theorem roster : ∀ a0 a1 a2, Statement (.roster a0 a1 a2) :=
  fun _ _ _ => ⟨nofun, fun _ => ⟨rfl, rfl⟩, fun h => h.elim nofun nofun⟩

theorem letGo : ∀ a0 a1 a2, Statement (.letGo a0 a1 a2) :=
  fun _ _ _ => ⟨nofun, fun _ => ⟨rfl, rfl⟩, fun _ => rfl⟩

theorem releaseNo : ∀ a0 a1 a2, Statement (.releaseNo a0 a1 a2) :=
  fun _ _ _ => ⟨nofun, fun _ => ⟨rfl, rfl⟩, fun _ => rfl⟩

theorem releaseWait : ∀ a0 a1 a2, Statement (.releaseWait a0 a1 a2) :=
  fun _ _ _ => ⟨nofun, fun _ => ⟨rfl, rfl⟩, fun _ => rfl⟩

theorem taken : ∀ a0 a1 a2, Statement (.taken a0 a1 a2) :=
  fun _ _ _ => ⟨nofun, fun _ => ⟨rfl, rfl⟩, fun _ => rfl⟩

theorem drained : ∀ a0 a1 a2, Statement (.drained a0 a1 a2) :=
  fun _ _ _ => ⟨nofun, fun _ => ⟨rfl, rfl⟩, fun _ => rfl⟩

theorem gone : ∀ a0 a1, Statement (.gone a0 a1) :=
  fun _ _ => ⟨nofun, fun _ => ⟨rfl, rfl⟩, fun _ => rfl⟩

theorem releaseAsk : ∀ a0 a1 a2, Statement (.releaseAsk a0 a1 a2) :=
  fun _ _ _ => ⟨nofun, fun _ => ⟨rfl, rfl⟩, fun _ => rfl⟩

theorem settled : ∀ a0 a1 a2, Statement (.settled a0 a1 a2) :=
  fun _ _ _ => ⟨nofun, fun _ => ⟨rfl, rfl⟩, fun _ => rfl⟩

theorem askStatus : ∀ a0 a1 a2 a3, Statement (.askStatus a0 a1 a2 a3) :=
  fun _ _ _ _ => ⟨nofun, fun _ => ⟨rfl, rfl⟩, fun _ => rfl⟩

theorem askRoster : ∀ a0 a1 a2 a3, Statement (.askRoster a0 a1 a2 a3) :=
  fun _ _ _ _ => ⟨nofun, fun _ => ⟨rfl, rfl⟩, fun _ => rfl⟩

theorem askPeers : ∀ a0 a1 a2 a3, Statement (.askPeers a0 a1 a2 a3) :=
  fun _ _ _ _ => ⟨nofun, fun _ => ⟨rfl, rfl⟩, fun _ => rfl⟩

theorem askZones : ∀ a0 a1 a2 a3, Statement (.askZones a0 a1 a2 a3) :=
  fun _ _ _ _ => ⟨nofun, fun _ => ⟨rfl, rfl⟩, fun _ => rfl⟩

theorem askEpisode : ∀ a0 a1 a2 a3, Statement (.askEpisode a0 a1 a2 a3) :=
  fun _ _ _ _ => ⟨nofun, fun _ => ⟨rfl, rfl⟩, fun _ => rfl⟩

theorem askConditions : ∀ a0 a1 a2 a3, Statement (.askConditions a0 a1 a2 a3) :=
  fun _ _ _ _ => ⟨nofun, fun _ => ⟨rfl, rfl⟩, fun _ => rfl⟩

theorem askGuard : ∀ a0 a1 a2 a3, Statement (.askGuard a0 a1 a2 a3) :=
  fun _ _ _ _ => ⟨nofun, fun _ => ⟨rfl, rfl⟩, fun _ => rfl⟩

theorem askIdentity : ∀ a0 a1 a2 a3, Statement (.askIdentity a0 a1 a2 a3) :=
  fun _ _ _ _ => ⟨nofun, fun _ => ⟨rfl, rfl⟩, fun _ => rfl⟩

theorem setLevel : ∀ a0 a1 a2 a3 a4, Statement (.setLevel a0 a1 a2 a3 a4) :=
  fun _ _ _ _ _ => ⟨nofun, fun _ => ⟨rfl, rfl⟩, fun _ => rfl⟩

theorem releaseBay : ∀ a0 a1, Statement (.releaseBay a0 a1) :=
  fun _ _ => ⟨nofun, fun _ => ⟨rfl, rfl⟩, fun _ => rfl⟩

theorem testStrings : ∀ a0 a1, Statement (.testStrings a0 a1) :=
  fun _ _ => ⟨nofun, fun _ => ⟨rfl, rfl⟩, fun _ => rfl⟩

theorem resetStation : ∀ a0 a1, Statement (.resetStation a0 a1) :=
  fun _ _ => ⟨nofun, fun _ => ⟨rfl, rfl⟩, fun _ => rfl⟩

theorem attentionResume : ∀ a0 a1 a2, Statement (.attentionResume a0 a1 a2) :=
  fun _ _ _ => ⟨nofun, fun _ => ⟨rfl, rfl⟩, fun _ => rfl⟩

theorem setMask : ∀ a0 a1 a2, Statement (.setMask a0 a1 a2) :=
  fun _ _ _ => ⟨nofun, fun _ => ⟨rfl, rfl⟩, fun _ => rfl⟩

theorem readLog : ∀ a0 a1 a2 a3 a4 a5, Statement (.readLog a0 a1 a2 a3 a4 a5) :=
  fun _ _ _ _ _ _ => ⟨nofun, fun _ => ⟨rfl, rfl⟩, fun _ => rfl⟩

theorem stopStream : ∀ a0 a1 a2, Statement (.stopStream a0 a1 a2) :=
  fun _ _ _ => ⟨nofun, fun _ => ⟨rfl, rfl⟩, fun _ => rfl⟩

theorem collect : ∀ a0 a1 a2, Statement (.collect a0 a1 a2) :=
  fun _ _ _ => ⟨nofun, fun _ => ⟨rfl, rfl⟩, fun _ => rfl⟩

theorem eraseRegion : ∀ a0 a1 a2, Statement (.eraseRegion a0 a1 a2) :=
  fun _ _ _ => ⟨nofun, fun _ => ⟨rfl, rfl⟩, fun _ => rfl⟩

theorem protectV : ∀ a0 a1 a2 a3, Statement (.protectV a0 a1 a2 a3) :=
  fun _ _ _ _ => ⟨nofun, fun _ => ⟨rfl, rfl⟩, fun _ => rfl⟩

theorem protectNv : ∀ a0 a1 a2, Statement (.protectNv a0 a1 a2) :=
  fun _ _ _ => ⟨nofun, fun _ => ⟨rfl, rfl⟩, fun _ => rfl⟩

theorem clearNvAll : ∀ a0 a1, Statement (.clearNvAll a0 a1) :=
  fun _ _ => ⟨nofun, fun _ => ⟨rfl, rfl⟩, fun _ => rfl⟩

theorem lockNv : ∀ a0 a1, Statement (.lockNv a0 a1) :=
  fun _ _ => ⟨nofun, fun _ => ⟨rfl, rfl⟩, fun _ => rfl⟩

theorem writeConfigStart : ∀ a0 a1 a2, Statement (.writeConfigStart a0 a1 a2) :=
  fun _ _ _ => ⟨nofun, fun _ => ⟨rfl, rfl⟩, fun _ => rfl⟩

theorem writeConfigSegment : ∀ a0 a1 a2 a3, Statement (.writeConfigSegment a0 a1 a2 a3) :=
  fun _ _ _ _ => ⟨nofun, fun _ => ⟨rfl, rfl⟩, fun _ => rfl⟩

theorem writeConfigFinish : ∀ a0 a1, Statement (.writeConfigFinish a0 a1) :=
  fun _ _ => ⟨nofun, fun _ => ⟨rfl, rfl⟩, fun _ => rfl⟩

theorem checkStore : ∀ a0 a1, Statement (.checkStore a0 a1) :=
  fun _ _ => ⟨nofun, fun _ => ⟨rfl, rfl⟩, fun _ => rfl⟩

theorem adapterChange : ∀ a0, Statement (.adapterChange a0) :=
  fun _ => ⟨nofun, nofun, fun h => h.elim nofun nofun⟩

theorem publishTimer : ∀ a0, Statement (.publishTimer a0) :=
  fun _ => ⟨nofun, nofun, fun h => h.elim nofun nofun⟩

theorem handoverTimer : Statement .handoverTimer :=
  ⟨nofun, nofun, fun h => h.elim nofun nofun⟩

theorem packSample : ∀ a0 a1 a2, Statement (.packSample a0 a1 a2) :=
  fun _ _ _ => ⟨nofun, nofun, fun h => h.elim nofun nofun⟩

theorem railSample : ∀ a0, Statement (.railSample a0) :=
  fun _ => ⟨nofun, nofun, fun h => h.elim nofun nofun⟩

theorem chargeReport : ∀ a0, Statement (.chargeReport a0) :=
  fun _ => ⟨nofun, nofun, fun h => h.elim nofun nofun⟩

theorem presentRise : ∀ a0, Statement (.presentRise a0) :=
  fun _ => ⟨nofun, nofun, fun h => h.elim nofun nofun⟩

theorem presentFall : Statement .presentFall :=
  ⟨nofun, nofun, fun h => h.elim nofun nofun⟩

theorem leverRise : Statement .leverRise :=
  ⟨nofun, nofun, fun h => h.elim nofun nofun⟩

theorem leverFall : Statement .leverFall :=
  ⟨nofun, nofun, fun h => h.elim nofun nofun⟩

theorem packCheckEnd : Statement .packCheckEnd :=
  ⟨nofun, nofun, fun h => h.elim nofun nofun⟩

theorem rescueClose : Statement .rescueClose :=
  ⟨nofun, nofun, fun h => h.elim nofun nofun⟩

theorem rescueGraceEnd : Statement .rescueGraceEnd :=
  ⟨nofun, nofun, fun h => h.elim nofun nofun⟩

theorem freedTimer : Statement .freedTimer :=
  ⟨nofun, nofun, fun h => h.elim nofun nofun⟩

theorem lostTimer : Statement .lostTimer :=
  ⟨nofun, nofun, fun h => h.elim nofun nofun⟩

theorem coolingTimer : Statement .coolingTimer :=
  ⟨nofun, nofun, fun h => h.elim nofun nofun⟩

theorem answerTimer : Statement .answerTimer :=
  ⟨nofun, nofun, fun h => h.elim nofun nofun⟩

theorem reAskDelayTimer : Statement .reAskDelayTimer :=
  ⟨nofun, nofun, fun h => h.elim nofun nofun⟩

theorem refusedLampTimer : Statement .refusedLampTimer :=
  ⟨nofun, nofun, fun h => h.elim nofun nofun⟩

theorem ambientReading : ∀ a0, Statement (.ambientReading a0) :=
  fun _ => ⟨nofun, nofun, fun h => h.elim nofun nofun⟩

theorem rampTimer : Statement .rampTimer :=
  ⟨nofun, nofun, fun h => h.elim nofun nofun⟩

theorem offTimer : Statement .offTimer :=
  ⟨nofun, nofun, fun h => h.elim nofun nofun⟩

theorem headroomReport : ∀ a0 a1, Statement (.headroomReport a0 a1) :=
  fun _ _ => ⟨nofun, nofun, fun h => h.elim nofun nofun⟩

theorem stringTestEnd : ∀ a0, Statement (.stringTestEnd a0) :=
  fun _ => ⟨nofun, nofun, fun h => h.elim nofun nofun⟩

theorem motionSample : ∀ a0 a1, Statement (.motionSample a0 a1) :=
  fun _ _ => ⟨nofun, nofun, fun h => h.elim nofun nofun⟩

theorem ownFall : Statement .ownFall :=
  ⟨nofun, nofun, fun h => h.elim nofun nofun⟩

theorem impactEnd : Statement .impactEnd :=
  ⟨nofun, nofun, fun h => h.elim nofun nofun⟩

theorem fallWindowTimer : Statement .fallWindowTimer :=
  ⟨nofun, nofun, fun h => h.elim nofun nofun⟩

theorem enterChecking : Statement .enterChecking :=
  ⟨nofun, nofun, fun h => h.elim nofun nofun⟩

theorem checkingTimer : Statement .checkingTimer :=
  ⟨nofun, nofun, fun h => h.elim nofun nofun⟩

theorem closingTimer : Statement .closingTimer :=
  ⟨nofun, nofun, fun h => h.elim nofun nofun⟩

theorem recordProgramDone : Statement .recordProgramDone :=
  ⟨nofun, nofun, fun h => h.elim nofun nofun⟩

theorem regionEraseDone : Statement .regionEraseDone :=
  ⟨nofun, nofun, fun h => h.elim nofun nofun⟩

theorem collectMarkDone : Statement .collectMarkDone :=
  ⟨nofun, nofun, fun h => h.elim nofun nofun⟩

theorem flagProgramDone : Statement .flagProgramDone :=
  ⟨nofun, nofun, fun h => h.elim nofun nofun⟩

theorem flagClearDone : Statement .flagClearDone :=
  ⟨nofun, nofun, fun h => h.elim nofun nofun⟩

theorem configProgramDone : Statement .configProgramDone :=
  ⟨nofun, nofun, fun h => h.elim nofun nofun⟩

theorem storeCheckDone : Statement .storeCheckDone :=
  ⟨nofun, nofun, fun h => h.elim nofun nofun⟩

theorem writeTimer : Statement .writeTimer :=
  ⟨nofun, nofun, fun h => h.elim nofun nofun⟩

theorem holdChange : ∀ a0, Statement (.holdChange a0) :=
  fun _ => ⟨nofun, nofun, fun h => h.elim nofun nofun⟩

theorem streamAdvance : Statement .streamAdvance :=
  ⟨nofun, nofun, fun h => h.elim nofun nofun⟩

theorem streamEndQueue : Statement .streamEndQueue :=
  ⟨nofun, nofun, fun h => h.elim nofun nofun⟩

theorem resetReplyRequeue : Statement .resetReplyRequeue :=
  ⟨nofun, nofun, fun h => h.elim nofun nofun⟩

theorem resetnFall : Statement .resetnFall :=
  ⟨nofun, nofun, fun h => h.elim nofun nofun⟩

theorem alwaysOnSupplyLoss : Statement .alwaysOnSupplyLoss :=
  ⟨nofun, nofun, fun h => h.elim nofun nofun⟩

end Sys2Proof.Laws.Shape
end

