-- ==== Sys2Proof/Tests/Slice0.lean ====
section
/-! SUPPORT. The package's own tests: ill-formed commands refused by the well-formedness check, and, statement by
statement, concrete states and operands that meet the hypotheses of each of its clauses together with what the
part then does. -/

namespace Sys2Proof.Tests

set_option Elab.async false

open Sys2Proof Sys2Proof.Machine

/-! ### The well-formedness check -/

/-- A bay summary of a READY bay. -/
def readySummary : BaySummary :=
  { state := .ready, pathClosed := false, charge := 100, voltage := .high, temperature := .normal, lever := false,
    current := 255 }

/-- A beacon with a summary, from a station in RUNNING and CALM. -/
def beaconOf (summary : RoleSummary) : Beacon := { phase := .running, shock := .calm, count := 65535, summary := summary }

/-- A SETTLED note's fields at their bounds. -/
def settledNote : SettledNote :=
  { count := 65535, source := .own, sourceStation := none, result := .ok, peak := 255, axis := .z, impacts := 255,
    late := false }

/-- A lid summary at its bounds. -/
def lidSummary : LidSummary := { applied := 1500, allowance := 1500, stage := .pass, faults := [] }

theorem test_wellFormed_beacons :
    (∀ b ∈ [beaconOf (.bay readySummary), beaconOf (.lid lidSummary), beaconOf .console],
      (Instr.beacon 3 .all b).wellFormed = true) ∧
    ∀ b ∈ [{ beaconOf .console with count := 65536 }, { beaconOf .console with phase := .deferred },
      { beaconOf (.bay readySummary) with phase := .deferred }, beaconOf (.bay { readySummary with charge := 101 }),
      beaconOf (.bay { readySummary with current := 256 }), { beaconOf (.lid lidSummary) with phase := .deferred },
      beaconOf (.lid { lidSummary with applied := 1501 }), beaconOf (.lid { lidSummary with allowance := 1501 }),
      beaconOf (.base { version := 65536, adapter := false, episode := .calm, slotBusy := false })],
      (Instr.beacon 3 .all b).wellFormed = false := by decide +kernel

theorem test_wellFormed_notes :
    (∀ c ∈ [Instr.fall 3 .all 65535 255, .impact 3 .all 65535 255 255 .x, .settled 3 .all settledNote,
      .calm 1 .all 65535 .timeout 6 [], .roster 1 .all (List.replicate 16 0), .releaseWait 1 (.station 3) 2,
      .taken 3 (.station 1) 65535, .drained 3 (.station 1) 255, .noteGarbled (List.replicate 261 0) .coded,
      .noteGarbled [] (.topic 0 255 15), .noteGarbled [] .step, .noteGarbled [] .none],
      c.wellFormed = true) ∧
    ∀ c ∈ [Instr.fall 3 .all 65536 40, .fall 3 .all 1 256, .impact 3 .all 65536 1 1 .x, .impact 3 .all 1 256 1 .x,
      .impact 3 .all 1 1 256 .x, .settled 3 .all { settledNote with count := 65536 },
      .settled 3 .all { settledNote with peak := 256 }, .settled 3 .all { settledNote with impacts := 256 },
      .calm 1 .all 65536 .timeout 6 [], .calm 1 .all 1 .timeout 7 [], .roster 1 .all (List.replicate 17 0),
      .releaseWait 1 (.station 3) 0, .releaseWait 1 (.station 3) 3, .taken 3 (.station 1) 65536,
      .drained 3 (.station 1) 256, .noteGarbled (List.replicate 262 0) .none, .noteGarbled [] (.topic 9 256 0),
      .noteGarbled [] (.topic 9 0 16)], c.wellFormed = false := by decide +kernel

theorem test_wellFormed_console :
    (∀ c ∈ [Instr.askStatus 0 .all 255 15, .setLevel 0 .all (.val .a) 255 (.val .keep), .stopStream 0 .all 255,
      .readLog 0 .all 255 (.val (.sequence 4294967295)) (.val (.count 255)) (.val true), .collect 0 .all 4294967295,
      .eraseRegion 0 .all 255, .writeConfigStart 0 .all 255, .writeConfigSegment 0 .all 255 (List.replicate 13 0)],
      c.wellFormed = true) ∧
    ∀ c ∈ [Instr.askStatus 0 .all 256 0, .askRoster 0 .all 0 16, .askPeers 0 .all 256 0, .askZones 0 .all 0 16,
      .askEpisode 0 .all 256 0, .askConditions 0 .all 0 16, .askGuard 0 .all 256 0, .askIdentity 0 .all 0 16,
      .setLevel 0 .all (.val .a) 256 (.val .keep), .stopStream 0 .all 256,
      .readLog 0 .all 256 (.val .oldest) (.val .toNewest) (.val true),
      .readLog 0 .all 0 (.val .oldest) (.val (.count 256)) (.val true),
      .readLog 0 .all 0 (.val (.sequence 0)) (.val .toNewest) (.val true),
      .readLog 0 .all 0 (.val (.sequence 4294967296)) (.val .toNewest) (.val true), .collect 0 .all 0,
      .collect 0 .all 4294967296, .eraseRegion 0 .all 256, .protectV 0 .all 256 (.val true), .protectNv 0 .all 256,
      .writeConfigStart 0 .all 256, .writeConfigSegment 0 .all 256 [0], .writeConfigSegment 0 .all 0 [],
      .writeConfigSegment 0 .all 0 (List.replicate 14 0)], c.wellFormed = false := by decide +kernel

theorem test_wellFormed_readings :
    (∀ c ∈ [Instr.publishTimer 65535, .packSample 65535 65535 (-40), .packSample 0 0 125, .railSample 65535,
      .chargeReport 100, .presentRise 100, .ambientReading 120000, .motionSample 255 .y], c.wellFormed = true) ∧
    ∀ c ∈ [Instr.publishTimer 65536, .packSample 65536 0 0, .packSample 0 65536 0, .packSample 0 0 (-41),
      .packSample 0 0 126, .railSample 65536, .chargeReport 101, .presentRise 101, .ambientReading 120001,
      .motionSample 256 .y], c.wellFormed = false := by decide +kernel

/-! ### States -/

/-- The state a command leads to. -/
def after (c : Instr) (s : State) : State :=
  match exec c s with
  | .next t => t
  | .fault _ | .refused _ => State.reset

/-- The kinds queued after a command. -/
def sent (c : Instr) (s : State) : List Kind := (after c s).link.queue.map Note.kind

/-- A peer of a role, heard just now, in RUNNING and CALM. -/
def peerOf (r : Role) : Peer :=
  { seen := true, role := some r, phase := some .running, time := 0, silent := false, shock := some .calm }

/-- The stations of a laptop: the console, a BASE, a LID and three BAYs. -/
def laptop : Vector Peer 8 :=
  #v[peerOf .console, peerOf .base, peerOf .lid, peerOf .bay, peerOf .bay, peerOf .bay, {}, {}]

/-- A part in RUNNING among the laptop's stations. -/
def part (r : Role) (k : Station) : State :=
  { State.reset with
    sys := { State.reset.sys with role := r, station := k, phase := .running }
    link := { beaconTimer := some 250, peers := laptop.set k {} } }

/-- The part in LISTEN. -/
def inListen (s : State) : State := { s with sys := { s.sys with phase := .listen, listenTimer := some 0 } }

/-- A roster entry with 80 % charge. -/
def entryOf (k : Station) (st : EntryState) (weight : Nat) : Entry :=
  { station := k, state := st, weight := weight, charge := 80, voltage := .high, temperature := .normal,
    silent := false, held := false }

/-- A roster with two CARRYING bays. -/
def shared : Roster :=
  { version := 7, epoch := 1, adapter := false, load := 100, allowance := 900, leaving := none
    entries := [entryOf 3 .carrying 8, entryOf 4 .carrying 8] }

/-- The BASE, with its two bays. -/
def base : State := { part .base 1 with roster := { RosterUnit.reset false with record := shared, publishTimer := some 1 } }

/-- The LID, with the roster of the BASE as its image. -/
def lid : State := { part .lid 2 with image := some { sender := 1, record := shared } }

/-- A BAY in a state, its pack there, with the roster of the BASE as its image. -/
def bay (st : BayState) : State :=
  { part .bay 3 with
    image := some { sender := 1, record := shared }
    pins := { State.reset.pins with present := true, roleStrap := 2, addrStrap := 3, packCharge := 80 }
    bay := { state := st, path := pathOf st, charge := 80 } }

/-- A part that has heard nobody. -/
def alone (s : State) : State := { s with link := { s.link with peers := Vector.replicate 8 {} } }

/-- A BASE, station 5, that the BASE at station 1 has put into DEFERRED. -/
def deferred : State :=
  { part .base 5 with link := { (part .base 5).link with deferred := true }, roster := RosterUnit.reset false }

/-- A part whose flash engine works, so that records wait in the write queue. -/
def busy (s : State) : State := { s with store := { s.store with engine := .check, remaining := 5 } }

/-- The station in another shock state. -/
def inShock (s : State) (k : ShockState) : State :=
  { s with shock := { s.shock with
      state := k, count := 5
      fallWindow := if k = .falling then some 1000 else none
      checking := if k = .checking then some 5000 else none
      episode := if k = .calm then none else some
        { checkPending := false, fallStart := 0, fallingAt := 0, durationFixed := k != .falling
          drop := { count := 5, source := .remote, sourceStation := some 4, fallDuration := 0, impactCount := 0,
                    peak := 100, axis := .x, outcome := .noImpact, calmBy := .none, duringHandover := false,
                    checkResult := none } } } }

/-- A bay with its controller changed. -/
def withBay (s : State) (f : Bay → Bay) : State := { s with bay := f s.bay }

/-- A BASE whose roster has other entries. -/
def entries (s : State) (es : List Entry) : State :=
  { s with roster := { s.roster with record := { s.roster.record with entries := es } } }

/-- A BASE to which a station is silent, as its roster shows. -/
def hushed (s : State) (k : Station) : State :=
  let t := entries s (mapEntry s.roster.record k fun e => { e with silent := true }).entries
  t.setPeer k { t.peer k with silent := true }

/-- A part without a roster image. -/
def unfed (s : State) : State := { s with image := none }

/-- A coordinator of stations 2 and 3. -/
def coordinating (state : EpisodeState) (settled : List Station) : Coordinator :=
  { state := state, count := 5, closing := if state = .closing then some 0 else none
    participants := [2, 3].map fun k =>
      { station := k, mark := if settled.contains k then .settled else .opened
        result := if settled.contains k then some .ok else none } }

/-- The BASE in a shock state, its coordinator running. -/
def episodeAt (k : ShockState) (state : EpisodeState) (settled : List Station) : State :=
  { inShock (busy base) k with coord := coordinating state settled }

/-! ### The machine and its laws -/

theorem meets_StepRunsTheFrontCommand :
    step { base with pending := [.noteStart, .pinReset] } = exec .noteStart { base with pending := [.pinReset] } := rfl

/-- A part without its always-on supply. -/
def unpowered (s : State) : State := { s with sys := { s.sys with powered := false } }

/-- The BASE with a handover, its timer at 1 ms. -/
def handover (phase : SlotPhase) : State :=
  { busy base with roster :=
    { record := { shared with leaving := some 3, entries := [entryOf 3 .releasing 0, entryOf 4 .carrying 16] }
      slot := some
        { leaving := 3, origin := .lever, takers := [4], confirmed := [], lostTakers := [], drained := false,
          letGoSent := phase == .freeing, phase := phase, startTime := 0, suspensions := 0 }
      waitList := [], handoverTimer := if phase = .suspended then none else some 1, publishTimer := some 1 } }

theorem meets_EmptyQueuePassesAMillisecond :
    (handover .shifting).pending = [] ∧ (handover .shifting).active = true ∧
      (unpowered base).active = false ∧ step (handover .shifting) = .next (handover .shifting).tick ∧
      (handover .shifting).tick.roster.handoverTimer = some 0 ∧ (handover .shifting).tick.sys.clock = 1 ∧
      ((handover .shifting).tick.peer 3).time = 1 ∧ ((handover .shifting).tick.peer 1).time = 0 :=
  ⟨by decide +kernel, by decide +kernel, by decide +kernel, rfl, by decide +kernel⟩

/-- A part for which a ms brings much: a peer falls silent, an erase ends, and a stream may read on. -/
def dueSoon : State :=
  let s := handover .shifting
  let t := s.setPeer 4 { s.peer 4 with time := 799 }
  { t with
    store := { t.store with engine := .erase 3 .ring, remaining := 1, writeTimer := some 1 }
    console := { t.console with
      endsOwed := [{ tag := 9, outcome := .cut, sent := 0, bad := 0, lastSequence := none }]
      stream := some { serial := 1, tag := 9, next := none, last := none, limit := .count 1, checkStop := true,
                       inHand := none, again := [], queued := 0, sent := 0, bad := 0, lastSequence := none,
                       ending := none } } }

theorem meets_WhatHasComeDueJoinsTheQueue :
    dueSoon.pending = [] ∧ dueSoon.active = true ∧
      dueSoon.tick.pending =
        [.peerSilent 4, .publishTimer 0, .handoverTimer, .regionEraseDone, .writeTimer, .streamEndQueue, .streamAdvance] ∧
      dueSoon.tick.tick.pending.length = 7 := by decide +kernel

/-- The engine programs a record of 3 bytes at offset 16 of region 1. -/
def programming : State :=
  { base with store := { base.store with
      engine := .program 1 16 [0x12, 0x34, 0x56] 1 false, remaining := 1
      regions := base.store.regions.set 1 { state := .written, fill := 16 } } }

theorem meets_BytesOutsideTheEnginesWorkStand :
    exec .recordProgramDone programming = .next (after .recordProgramDone programming) ∧
      (∀ k tgt, Instr.recordProgramDone ≠ .resetStation k tgt) ∧
      programming.store.worksOn 4111 = false ∧ programming.store.worksOn 4112 = true ∧
      programming.store.worksOn 4114 = true ∧ programming.store.worksOn 4115 = false ∧
      programming.store.worksOnFlags = false ∧
      (after .recordProgramDone programming).flash.cells = [(4112, 0x12), (4113, 0x34), (4114, 0x56)] :=
  ⟨rfl, by simp, by decide +kernel⟩

theorem meets_PinsConfigurationAndOtherRolesStand :
    movesPins .ownFall = false ∧ mayReset .ownFall = false ∧ ofStart .ownFall = false ∧
      movesPins (.holdChange false) = true ∧ mayReset .noteSent = true ∧ ofStart .enterRunning = true ∧
      lid.sys.role ≠ .base ∧ lid.sys.role ≠ .bay ∧ base.sys.role ≠ .lid ∧
      (∀ s, exec .ownFall s = .next (after .ownFall s)) ∧
      (∀ s ∈ [base, lid, bay .carrying],
        (after .ownFall s).pins = s.pins ∧ (after .ownFall s).shock.state = .falling) :=
  ⟨rfl, rfl, rfl, rfl, rfl, rfl, by decide, by decide, by decide, fun _ => rfl, by decide +kernel⟩

/-- The largest outgoing queue: one urgent note ahead of five ordinary ones. -/
def fullQueue : List Note :=
  { target := .all, body := .fall 1 40 } :: { target := .all, body := .beacon base.formBeacon } ::
    { target := .all, body := .roster shared } :: List.replicate 3 { target := .station 3, body := .letGo .handover }

/-- A part whose outgoing queue is as full as it gets. -/
def crowded (s : State) : State := { s with link := { s.link with queue := fullQueue } }

theorem meets_StepKeepsTheNoteQueueLaw :
    NoteLaw (crowded base).link.queue ∧ step (crowded base) = .next (crowded base).tick ∧
      (crowded base).tick.link.queue = fullQueue :=
  ⟨⟨by decide, by decide, by decide +kernel, by decide, by decide⟩, rfl, rfl⟩

theorem meets_StepKeepsTheStoreLaw :
    programming.storeLaw ∧ step { programming with pending := [.recordProgramDone] } =
      .next (after .recordProgramDone programming) ∧ (after .recordProgramDone programming).flash.wf = true :=
  ⟨⟨⟨⟨by decide, by decide, rfl, by simp [programming, base, part, State.reset]⟩, by simp [programming, EngineLaw],
    trivial⟩, rfl⟩, rfl, by decide +kernel⟩

theorem meets_StepKeepsTheRosterLaw :
    (∀ phase, RosterLaw (handover phase).roster) ∧
      step { handover .shifting with pending := [.handoverTimer] } = .next (after .handoverTimer (handover .shifting)) ∧
      (after .handoverTimer (handover .shifting)).roster.slot = none ∧
      (after .handoverTimer (handover .shifting)).roster.handoverTimer = none :=
  ⟨fun phase => by cases phase <;> exact ⟨by decide, by decide, by decide, rfl, rfl⟩, rfl, by decide +kernel,
    by decide +kernel⟩

/-- The LID with a zone below its target of 100 mA. -/
def ramping : State :=
  { lid with panel := { lid.panel with
      ramp := some 0
      zones := lid.panel.zones.set 1 { lid.panel.zones[1] with demand := 100, target := 100, applied := 95 } } }

theorem meets_StepKeepsTheStationLaws :
    ((bay .carrying).pathLaw ∧ (bay .carrying).plays .bay = true ∧
      (after .presentFall (busy (bay .carrying))).bay.path = false ∧
      (after .presentFall (busy (bay .carrying))).bay.state = .lost) ∧
    (PanelLaw ramping.panel ramping.supply ∧ (after .rampTimer ramping).panel.zones[1].applied = 100) ∧
    (ShockLaw (inShock lid .falling).shock ∧ (after (.motionSample 96 .y) (inShock lid .falling)).shock.state = .impact) :=
  ⟨⟨fun _ => by unfold BayLaw; decide +kernel, by decide +kernel⟩,
    ⟨⟨by decide +kernel, by decide +kernel⟩, by decide +kernel⟩, ⟨by unfold ShockLaw; decide +kernel, by decide +kernel⟩⟩

theorem meets_ResetHoldsEveryLaw : State.reset.pins.adapter = false ∧ State.reset.active = true := by decide

/-! ### Resets and starts -/

/-- A part of straps that make no sense. -/
def strapFault : State := { base with sys := { base.sys with phase := .strapFault } }

theorem meets_ResetsGiveTheResetValues :
    (bay .carrying).sys.powered = true ∧ (unpowered base).sys.powered = false ∧ (bay .carrying).active = true ∧
      (unpowered base).active = false ∧
      ((after .pinReset (bay .carrying)).bay.path = true ∧ (after (.powerOnReset 2 3) (bay .carrying)).bay.path = false ∧
        (bay .carrying).stationReset.bay.path = true ∧ (bay .ready).stationReset.bay.path = false ∧
        (after .resetnFall (bay .carrying)).bay.path = true ∧ (after .resetnFall (bay .carrying)).active = false) ∧
      ((after (.powerOnReset 3 1) base).sys.phase = .strapFault ∧ (after (.powerOnReset 1 0) base).sys.phase = .strapFault ∧
        (after (.powerOnReset 1 7) base).sys.phase = .start ∧ (after (.powerOnReset 1 7) base).sys.role = .lid ∧
        (after (.powerOnReset 1 7) base).sys.station = 7) := by decide +kernel

/-- A part whose engine erases a region of the log, or programs a record while one is suspended. -/
def cuttable (r : Region) (suspended : Bool) : State :=
  { base with store := { base.store with
      engine := if suspended then .program 1 16 (List.replicate 14 7) 1 false else .erase r .ring
      suspended := if suspended then some { region := r, cause := .ring, remaining := 9 } else none } }

theorem meets_AResetCutsTheFlash :
    (∀ r ∈ [(0 : Region), 1, 2, 14, 15], ∀ b ∈ [true, false], (cuttable r b).active = true ∧
        (cuttable r b).flash.wf = true ∧ EngineLaw (cuttable r b).store.engine ∧ WriteLaw (cuttable r b).store.configWrite ∧
        (cuttable r b).store.queue = []) ∧
      (12 < (List.replicate 14 (7 : Byte)).length ∧ (cuttable 2 true).store.worksOn 4125 = true ∧
        (cuttable 2 true).store.worksOn 4126 = false ∧ (cuttable 2 true).store.worksOn 8191 = false ∧
        (cuttable 2 true).store.worksOn 8192 = true) ∧
      (inRing 1 = true ∧ inRing 14 = true ∧ inRing 0 = false ∧ inRing 15 = false) := by
  refine ⟨fun r _ b _ => ⟨rfl, rfl, ?_, trivial, rfl⟩, by decide +kernel, by decide +kernel⟩
  cases b
  · trivial
  · show 16 + (List.replicate 14 (7 : Byte)).length ≤ 4096
    decide

/-- The first record of region 1, without its check's bytes. -/
def header : List Host.Cell := [(4096, 0x81), (4097, 14), (4098, 0), (4099, 0), (4100, 0)]

theorem test_what_the_scan_finds_of_a_cut_erase :
    (showsCutErase [] 1 = true ∧ showsCutErase [(4097, 0)] 1 = true ∧ showsCutErase [(4096, 0)] 1 = true ∧
        showsCutErase header 1 = false ∧ showsCutErase (header ++ [(4110, 0)]) 1 = true ∧
        showsCutErase (header ++ [(4111, 0)]) 1 = false) ∧
      (walkEnd header 1 = 14 ∧ walkEnd [] 1 = 0 ∧ (walkRegion header 1).2 = 14 ∧
        (walkRegion (header ++ [(4110, 0)]) 1).2 = 4096) := by decide +kernel

theorem meets_ResetLeavesTheCoordinatorCalm :
    (exec (.powerOnReset 0 1) base = .next (after (.powerOnReset 0 1) base)) ∧
      (base.sys.powered = true ∧ exec .pinReset base = .next (after .pinReset base)) ∧
      strapFault.sys.phase = .strapFault ∧ noteOf (.fall 3 .all 1 40) = some (.fall, 3, .all) ∧
      exec (.fall 3 .all 1 40) strapFault = .next (after (.fall 3 .all 1 40) strapFault) ∧
      after (.fall 3 .all 1 40) strapFault = strapFault := ⟨rfl, ⟨rfl, rfl⟩, rfl, rfl, rfl, by decide +kernel⟩

/-- The state at the end of START, with some cells in the flash. -/
def starting (r : Role) (cells : List Host.Cell) : State :=
  { State.reset with
    sys := { State.reset.sys with role := r, station := 3 }
    pins := { State.reset.pins with present := true, laOthers := true }
    flash := { cells := cells, nFlags := 0 } }

/-- The fields of a configuration record with a fall time, at bounds of their ranges (R209). -/
def configFields (fallTime : Byte) : List Byte :=
  [49, 68, 31, fallTime, 255, 50, 0xe8, 3] ++ [250, 0, 249, 1, 248, 2, 0, 8, 1, 16, 2, 38] ++
    ([0, 1, 2, 3, 4, 5, 6, 120000].flatMap fun l => le32 l ++ [7]) ++ [1, 2, 0xff, 0, 1, 0]

theorem test_config_fields :
    parseFields (configFields 15) = none ∧ parseFields (configFields 201) = none ∧
      (parseFields (configFields 16)).isSome = true ∧ (parseFields (configFields 200)).isSome = true := by decide +kernel

theorem test_config_first_half : ((configFields 200).take 33).foldl checkByte 65535#16 = 0x0bb6#16 := by
  decide +kernel

theorem test_config_check : checkBytes (configFields 200) = [0x57, 0x63] := by
  have h : checkOf (configFields 200) = 0x6357#16 := by
    rw [← List.take_append_drop 33 (configFields 200), checkOf, List.foldl_append, test_config_first_half]
    decide +kernel
  rw [checkBytes, h]
  decide

/-- The configuration record with its check. -/
def configRecord : List Byte := configFields 200 ++ [0x57, 0x63]

/-- A flash that holds the configuration record. -/
def configured : List Host.Cell := (configRecord.zipIdx.map fun b => (b.2, b.1)).filter fun c => c.2 != 255

theorem test_config_loaded : ∃ c, testConfig (regionErased configured 0) (flashRead configured 0 68) = .ok c ∧
    c.fallTime = 200 ∧ c.mask = 0xff := by
  have e : flashRead configured 0 68 = configRecord := by decide +kernel
  have h : endsWithCheck (configRecord.take 68) = true := by
    have d : (configRecord.take 68).drop 66 = [0x57, 0x63] := by decide +kernel
    have f : (configRecord.take 68).take 66 = configFields 200 := by decide +kernel
    have l : (configRecord.take 68).length = 68 := by decide +kernel
    simp only [endsWithCheck, l, d, f, test_config_check]
    decide
  obtain ⟨c, hc⟩ := Option.isSome_iff_exists.mp (show (parseFields configRecord).isSome = true by decide +kernel)
  refine ⟨c, ?_, ?_⟩
  · rw [e, testConfig, if_neg (by decide +kernel), if_neg (by decide +kernel), h, if_neg (by decide), hc]
  · have : (parseFields configRecord).map (fun c => (c.fallTime, c.mask)) = some (200, 0xff) := by decide +kernel
    rw [hc] at this
    simpa using this

/-- What the test of the configuration record finds in some cells: none for LOADED. -/
def refusalOf (cells : List Host.Cell) : Option ConfigRefusal :=
  match testConfig (regionErased cells 0) (flashRead cells 0 68) with
  | .ok _ => none
  | .error e => some e

theorem meets_EnterListenStartsTheStation :
    (∀ r ∈ [Role.base, .lid, .bay], (starting r []).active = true ∧ (starting r []).sys.phase = .start) ∧
      refusalOf (starting .bay []).flash.cells = some .blank ∧ refusalOf [(1, 68)] = some .format ∧
      (starting .bay configured).sys.phase = .start ∧
      (starting .bay []).bay.path = false ∧ (starting .bay []).pins.present = true ∧
      (starting .bay []).shock.state = .calm ∧ (starting .bay []).pins.laOthers = true ∧
      (starting .bay []).link.laDrive = false ∧ State.reset.pins.laOthers = false ∧
      (after .enterListen (starting .bay [])).config.fallTime = 40 ∧
      (after .enterListen (starting .bay [])).bay.state = .seated ∧
      (after .enterListen (starting .bay [])).shock.state = .falling ∧
      (after .enterListen (starting .lid [])).supply.test.isSome = true := by decide +kernel

/-- The cells of a good record from an offset of region 1 on. -/
def written (off : Nat) (bytes : List Byte) : List Host.Cell :=
  (bytes.zipIdx.map fun b => (4096 + off + b.2, b.1)).filter fun c => c.2 != 255

/-- A log of a START record of start count 8 and sequence 5, and of a later one of count 65535 with a damaged tail. -/
def started : List Host.Cell :=
  written 0 (recordBytes 1 5 8 0 []) ++ written 14 (recordBytes 1 6 65535 0 []) ++ [(4096 + 28, 0)]

theorem meets_TheScanOfAStart :
    ((starting .base started).active = true ∧ (walkRegion started 1).1.map Prod.fst = [0, 14] ∧
        (walkRegion started 1).2 = 4096 ∧ (walkRegion started 2).1 = []) ∧
      ((after .enterListen (starting .base started)).store.startCount = 1 ∧
        (after .enterListen (starting .base (written 0 (recordBytes 1 5 8 0 [])))).store.startCount = 9 ∧
        (after .enterListen (starting .base [])).store.startCount = 1) ∧
      ((after .enterListen (starting .base started)).store.regions[1] =
          { state := .written, fill := 4096, first := some 5, last := some 6, good := 2 } ∧
        (after .enterListen (starting .base started)).store.openRegion = 1) ∧
      ((after .enterListen (starting .base [(4097, 0)])).store.regions[1] = { state := .written, fill := 4096 } ∧
        (after .enterListen (starting .base [(8193, 0)])).store.regions[2] = {}) ∧
      ((after .enterListen (starting .base (written 0 (recordBytes 2 4294967295 8 0 [])))).hasCond .logFull = true ∧
        (after .enterListen (starting .base (written 0 (recordBytes 2 9 8 0 [])))).store.regions[1].uncollected = 1) := by
  decide +kernel

/-- A LID in LISTEN that owes two SETTLED notes. -/
def settledOwing : State :=
  { inListen (busy lid) with shock := { lid.shock with settledOwed := [settledNote, { settledNote with count := 1 }] } }

/-- A bay in LISTEN that owes GONE. -/
def goneOwing : State := withBay (inListen (busy (bay .freed))) fun b => { b with goneOwed := true }

theorem meets_TheNotesOwedAreQueued :
    (settledOwing.listening = true ∧ settledOwing.link.queue.length + settledOwing.shock.settledOwed.length ≤ 2 ∧
        settledOwing.lowestBase = some 1) ∧
      (after .enterRunning settledOwing).link.queue.tail = [{ target := .station 1, body := .settled settledNote },
        { target := .station 1, body := .settled { settledNote with count := 1 } }] ∧
      (goneOwing.listening = true ∧ goneOwing.link.queue.length ≤ 2 ∧ goneOwing.sys.role = .bay ∧
        goneOwing.bay.goneOwed = true) ∧
      (after .enterRunning goneOwing).link.queue.tail = [{ target := .station 1, body := .gone }] := by decide +kernel

theorem meets_EnterRunningBeginsTheWork :
    (∀ s ∈ [base, lid, bay .ready, deferred, alone lid], (inListen (busy s)).listening = true) ∧
      (alone lid).lowestBase = none ∧ base.link.deferred = false ∧ deferred.link.deferred = true ∧
      (after .enterRunning (inListen (busy base))).roster.publishTimer = some 1000 ∧
      (after .enterRunning (inListen (busy (alone lid)))).hasCond .baseSilent = true ∧
      (after .enterRunning (inListen (busy lid))).hasCond .baseSilent = false := by decide +kernel

/-- A bay in LISTEN whose image gives it the load. -/
def assignedInListen : State :=
  { inListen (busy (bay .ready)) with image := some { sender := 1, record := shared } }

/-- The START records that wait: cause, bay state, deferred. -/
def startsOf (s : State) : List (ResetCause × Option BayState × Bool) :=
  s.store.queue.filterMap fun q => match q.content with
    | .start x => some (x.cause, x.bay, x.deferred)
    | _ => none

theorem meets_TheBlocksActAtTheEntryToRunning :
    (assignedInListen.listening = true ∧ assignedInListen.shock.state = .calm ∧ assignedInListen.link.queue = [] ∧
        assignedInListen.ownEntry = some (entryOf 3 .carrying 8)) ∧
      ((after .enterRunning assignedInListen).bay.state = .carrying ∧
        (after .enterRunning assignedInListen).link.queue =
          [{ target := .all, body := .beacon assignedInListen.formBeacon },
            { target := .station 1, body := .taken 7 }] ∧
        startsOf (after .enterRunning assignedInListen) = [(.powerOn, some .carrying, false)] ∧
        (after .enterRunning (inShock assignedInListen .impact)).bay.state = .ready ∧
        (after .enterRunning (unfed (inListen (busy (bay .carrying))))).bay.state = .carrying) ∧
      (sent .enterRunning (inListen (busy base)) = [.beacon, .roster] ∧
        sent .enterRunning (inListen (busy deferred)) = [.beacon] ∧
        startsOf (after .enterRunning (inListen (busy deferred))) = [(.powerOn, none, true)]) := by decide +kernel

/-! ### The Link Interface -/

/-- A queue of notes. -/
def queued (s : State) (q : List Note) : State := { s with link := { s.link with queue := q } }

/-- An ordinary and an urgent note. -/
def ordinaryNote : Note := { target := .station 3, body := .letGo .handover }

/-- An urgent note. -/
def urgentNote : Note := { target := .all, body := .fall 2 40 }

/-- A beacon of the part. -/
def beaconNote : Note := { target := .all, body := .beacon base.formBeacon }

theorem meets_NotesAndConditionsAreTaken :
    (∀ n ∈ [ordinaryNote, urgentNote, beaconNote], base.takesKind n.kind = true) ∧
      (replacingKind beaconNote.kind = true ∧ ∃ m ∈ (crowded base).link.queue, m.kind = beaconNote.kind) ∧
      (ordinaryNote.urgent = false ∧ replacingKind ordinaryNote.kind = false) ∧
      (beaconNote.urgent = false ∧ ∀ m ∈ base.link.queue, m.kind ≠ beaconNote.kind) ∧
      (ordinaryCount (List.replicate 4 ordinaryNote) < 5 ∧ ¬ ordinaryCount (List.replicate 5 ordinaryNote) < 5) ∧
      ((queued base (List.replicate 4 ordinaryNote)).send ordinaryNote).link.queue.length = 5 ∧
      ((queued base (List.replicate 5 ordinaryNote)).send ordinaryNote).hasCond .linkOverrun = true ∧
      (urgentNote.urgent = true ∧ (List.replicate 5 ordinaryNote).length < 6 ∧ fullQueue.length = 6 ∧
        ∃ m ∈ fullQueue, m.urgent = false) ∧
      ((crowded base).send urgentNote).link.queue.map Note.urgent = [true, true, false, false, false, false] ∧
      ((List.replicate 6 urgentNote).length = 6 ∧ ∀ m ∈ List.replicate 6 urgentNote, m.urgent = true) := by
  decide +kernel

/-- A station with an unmasked condition in its set. -/
def noisy (s : State) : State := { s with console := { s.console with conditions := 2, mask := 0 } }

theorem meets_ConditionsAndAttention :
    (noisy base).hasCond .linkNoise = true ∧ base.attentionMet = false ∧ (noisy base).attentionMet = true ∧
      roomOrdinary (noisy base).link.queue = true ∧ (noisy (crowded base)).attentionMet = true ∧
      roomOrdinary (noisy (crowded base)).link.queue = false ∧
      (after (.noteGarbled [] .none) base).console.inhibited = true ∧ sent (.noteGarbled [] .none) base = [.attention] ∧
      sent (.noteGarbled [] .none) { base with console := { mask := 2 } } = [] := by decide +kernel

theorem meets_AttentionIsMet :
    ((noisy base).active = true ∧ (noisy base).sys.phase = .running ∧ (noisy base).console.mask.has Condition.linkNoise.bit = false ∧
        (noisy base).console.inhibited = false ∧ (noisy base).console.stream = none ∧ ((noisy base).peer 0).silent = false) ∧
      ({ noisy base with console := { (noisy base).console with mask := 2 } }.attentionMet = false ∧
        { noisy base with console := { (noisy base).console with inhibited := true } }.attentionMet = false ∧
        (inListen (noisy base)).attentionMet = false ∧
        ((noisy base).setPeer 0 { (noisy base).peer 0 with silent := true }).attentionMet = false) := by decide +kernel

/-- A part with a note in its transmit buffer. -/
def buffered (s : State) (n : Note) (started : Bool) : State :=
  { s with link := { s.link with buffer := some { note := n, started := started } } }

theorem meets_NotesStartAndWithdraw :
    base.awake = true ∧ base.link.buffer = none ∧ base.link.queue = [] ∧
      (crowded base).link.queue = { target := .all, body := .fall 1 40 } :: fullQueue.tail ∧
      (buffered base ordinaryNote true).link.buffer = some { note := ordinaryNote, started := !false } ∧
      (buffered base ordinaryNote false).link.buffer = some { note := ordinaryNote, started := !true } ∧
      newerQueued fullQueue beaconNote = some beaconNote ∧ newerQueued fullQueue ordinaryNote = none ∧
      sent .noteStart (buffered (crowded base) beaconNote false) = [.fall, .roster, .letGo, .letGo, .letGo] ∧
      (after .noteWithdraw (buffered base ordinaryNote true)).link.buffer =
        some { note := ordinaryNote, started := false } := by decide +kernel

/-- A stream in progress: tag 9, a record of 30 bytes in hand, at a SEG. -/
def stream (index : Nat) : Stream :=
  { serial := 1, tag := 9, next := none, last := none, limit := .count 1, checkStop := true,
    inHand := some { bytes := recordBytes 1 5 1 0 (List.replicate 16 7), index := index }, again := [], queued := 0,
    sent := 0, bad := 0, lastSequence := none, ending := none }

/-- A part with a log stream. -/
def streaming (s : State) (st : Stream) : State := { s with console := { s.console with stream := some st, serial := 1 } }

/-- A SEG note of the stream. -/
def segNote : SegNote :=
  { stream := 1, tag := 9, recordFirst := true, recordLast := false, badCheck := false, bytes := [] }

/-- The REPLY of an owed reset. -/
def resetReply : Note := { target := .station 0, body := .reply .resetStation .done .none }

/-- A part that owes a station reset. -/
def owing (s : State) : State := { s with console := { s.console with resetOwed := true } }

theorem meets_NoteSentMovesTheQueueOn :
    base.link.buffer = none ∧
      (buffered (crowded base) ordinaryNote true).link.buffer = some { note := ordinaryNote, started := true } ∧
      base.console.resetOwed = false ∧ (owing base).console.resetOwed = true ∧
      (after .noteSent (buffered (crowded base) ordinaryNote true)).link.queue = fullQueue.tail ∧
      ((after .noteSent (buffered (streaming base { stream 0 with queued := 1 })
        { target := .station 0, body := .seg segNote } true)).console.stream.map Stream.queued) = some 0 ∧
      (after .noteSent (buffered (owing base) resetReply true)).sys.phase = .start ∧
      (after .noteSent (buffered (owing base) ordinaryNote true)).sys.phase = .running := by decide +kernel

theorem meets_NoiseClashAndTheBeaconTimer :
    formTest [] = false ∧ formTest (noteBytes .fall 3 .all [1, 0, 40]) = true ∧
      parseRoster [] = none ∧ base.awake = true ∧ base.sys.station = 1 ∧
      base.running = true ∧ base.link.beaconTimer ≠ none ∧ (inListen base).running = false ∧
      (roomOrdinary base.link.queue = true ∧ ∃ m ∈ fullQueue, m.kind = .beacon) ∧
      sent .beaconTimer base = [.beacon] ∧ (sent .beaconTimer (crowded base)).length = 6 ∧
      (after (.beacon 1 .all (beaconOf .console)) base).hasCond .addrClash = true ∧
      (after (.noteGarbled (noteBytes .fall 3 .all [1, 0, 40]) .none) base).hasCond .linkNoise = false ∧
      (noteHeader (noteBytes .impact 3 .all [1, 0, 1, 96, 0]) = some (.impact, 3, .all) ∧ consoleKind .impact = false ∧
        formTest (noteBytes .impact 3 .all [1, 0, 1, 96, 3]) = true) ∧
      ((after (.noteGarbled (noteBytes .impact 3 .all [1, 0, 1, 96, 3]) .coded) base).hasCond .linkNoise = true ∧
        (after (.calm 3 .all 5 .interrupted 2 []) lid).hasCond .linkNoise = true ∧
        (after (.roster 1 .all []) lid).hasCond .linkNoise = true) := by decide +kernel

/-- A BAY whose last sample has these readings. -/
def sampled (voltage current : Nat) (temperature : Int) : State :=
  { bay .carrying with bay := { (bay .carrying).bay with
      sample := { voltage := voltage, current := current, temperature := temperature } } }

theorem meets_TheBeaconIsFormed :
    (base.formBeacon.summary = .base { version := 7, adapter := false, episode := .calm, slotBusy := false } ∧
        deferred.formBeacon.phase = .deferred ∧ lid.sys.role = .lid ∧
        lid.formBeacon.summary = .lid { applied := 0, allowance := 900, stage := .off, faults := [] }) ∧
      ((bay .carrying).pins.present = true ∧ (sampled 11499 9 44).formBeacon.summary = .bay
          { state := .carrying, pathClosed := true, charge := 80, voltage := .low, temperature := .normal, lever := false,
            current := 0 } ∧
        (sampled 15499 2559 69).formBeacon.summary = .bay
          { state := .carrying, pathClosed := true, charge := 80, voltage := .mid, temperature := .warm, lever := false,
            current := 255 } ∧
        (sampled 15500 2560 70).formBeacon.summary = .bay
          { state := .carrying, pathClosed := true, charge := 80, voltage := .high, temperature := .hot, lever := false,
            current := 255 } ∧
        { sampled 15500 2560 70 with pins := base.pins }.formBeacon.summary = .bay
          { state := .carrying, pathClosed := true, charge := 0, voltage := .low, temperature := .normal, lever := false,
            current := 0 }) := by decide +kernel

/-- A station whose capture holds a violation, the count at a value. -/
def captured (s : State) (n : Nat) : State :=
  { s with link := { s.link with
      violations := n
      capture := some
        { reason := .unknownSender, sender := 6, kind := .gone, target := .all, roleHeld := none, time := 0 } } }

theorem meets_HeardNotesAndNotesTurnedAway :
    ((base.awake = true ∧ (3 : Station) ≠ base.sys.station ∧ notConsumed .reply = true ∧
        (base.peer 3).silent = false ∧ (base.peer 6).silent = true ∧ base.hasCond .linkNoise = false) ∧
      (noisy base).hasCond .linkNoise = true) ∧
      noteOf (.gone 6 .all) = some (.gone, 6, .all) ∧ noteOf (.fall 1 .all 1 40) = some (.fall, 1, .all) ∧
      { base with sys := { base.sys with phase := .start } }.awake = false ∧
      ((Target.station 2) ≠ .all ∧ (Target.station 2) ≠ .station base.sys.station) ∧
      (base.heard 6).violation .gone 6 = some .unknownSender ∧ (base.heard 2).violation .gone 2 = some .roleMismatch ∧
      (base.heard 6).link.capture = none ∧ ((captured base 254).heard 6).link.capture ≠ none ∧
      ((after (.gone 6 .all) (captured base 254)).link.violations = 255 ∧
        (after (.gone 6 .all) (captured base 254)).link.overflow = false) ∧
      ((after (.gone 6 .all) (captured base 255)).link.violations = 255 ∧
        (after (.gone 6 .all) (captured base 255)).link.overflow = true) ∧
      (after (.gone 6 .all) (busy base)).hasCond .acceptViolation = true := by decide +kernel

theorem meets_TheAcceptanceTable :
    ((base.peer 6).role = none ∧ base.violation .fall 6 = some .unknownSender) ∧
      (∀ kind ∈ [Kind.fall, .impact, .settled, .reply, .storeDone, .seg, .streamEnd, .attention], ∀ k ∈ [(1 : Station), 2, 3],
        (bay .ready).violation kind k = if k = 3 then some .unknownSender else none) ∧
      (∀ kind ∈ [Kind.lost, .fault, .taken, .drained, .gone, .releaseAsk], base.violation kind 3 = none ∧
        base.violation kind 2 = some .roleMismatch ∧ base.violation kind 0 = some .roleMismatch) ∧
      (∀ kind ∈ [Kind.calm, .letGo, .releaseNo, .releaseWait, .roster], lid.violation kind 1 = none ∧
        lid.violation kind 3 = some .roleMismatch) ∧
      (∀ kind ∈ [Kind.ask, .resetStation, .checkStore], base.violation kind 0 = none ∧
        base.violation kind 3 = some .roleMismatch ∧
        (base.setPeer 4 (peerOf .console)).violation kind 4 = some .roleMismatch) ∧
      ((lid.setPeer 4 (peerOf .base)).violation .roster 4 = some .roleClash ∧
        ((lid.setPeer 4 (peerOf .base)).setPeer 1 { peerOf .base with silent := true }).violation .roster 4 = none ∧
        (lid.setPeer 4 (peerOf .base)).violation .calm 4 = none) ∧
      (base.admits .gone 3 (.station 2) = false ∧ base.admits .gone 3 (.station 1) = true ∧
        base.admits .gone 1 .all = false) := by decide +kernel

theorem meets_TheEndOfASilenceIsTaken :
    ((3 : Station) ≠ 0 ∧ ((hushed base 3).peer 3).silent = true ∧ (hushed base 3).rosterActive = true ∧
        (hushed base 3).roster.slot = none ∧ (hushed base 3).publishing = true ∧
        ∃ e ∈ (hushed base 3).roster.record.entries, e.station = 3 ∧ e.silent = true) ∧
      ((hushed base 3).heard 3).lags 3 = true ∧
      ((hushed base 3).hears 3).roster.record.entries = base.roster.record.entries ∧
      ((hushed base 3).hears 3).roster.record.version = 8 ∧ (base.hears 3).roster = base.roster := by decide +kernel

/-- The beacon of a BASE. -/
def baseBeacon : Beacon := beaconOf (.base { version := 1, adapter := false, episode := .calm, slotBusy := false })

theorem meets_BeaconsAreWrittenAndDefer :
    base.awake = true ∧ (3 : Station) ≠ base.sys.station ∧ beaconMismatch 3 .bay = false ∧ beaconMismatch 0 .bay = true ∧
      beaconMismatch 3 .console = true ∧ beaconMismatch 0 .console = false ∧
      (beaconMismatch 1 .base = false ∧ (part .base 5).sys.role = .base ∧ (1 : Station) < (part .base 5).sys.station ∧
        (part .base 5).link.deferred = false) ∧
      (after (.beacon 1 .all baseBeacon) (busy (part .base 5))).link.deferred = true ∧
      ((after (.beacon 5 .all baseBeacon) (busy base)).link.deferred = false) ∧
      ((after (.beacon 3 .all (beaconOf (.bay readySummary))) (busy base)).peer 3).count = 65535 := by decide +kernel

theorem test_deferring_keeps_the_version :
    (after (.beacon 1 .all baseBeacon) { part .base 5 with roster := base.roster }).link.deferred = true ∧
      (after (.beacon 1 .all baseBeacon) { part .base 5 with roster := base.roster }).roster.record =
        { shared with entries := [] } := by decide +kernel

/-- The beacon of a bay in a state. -/
def bayBeacon (st : BayState) : Beacon := beaconOf (.bay { readySummary with state := st, pathClosed := pathOf st })

/-- The roster's stations, states and weights after the beacon of a bay. -/
def rosterAfter (k : Station) (st : BayState) (s : State) : List (Station × EntryState × Nat) :=
  (after (.beacon k .all (bayBeacon st)) s).roster.record.entries.map fun e => (e.station, e.state, e.weight)

theorem meets_BayBeaconsMoveTheRoster :
    (base.rosterActive = true ∧ (5 : Station) ≠ base.sys.station ∧ (5 : Station) ≠ 0 ∧ base.roster.slot = none ∧
        rosterEntry base.roster.record 5 = none ∧ base.roster.record.entries.length < 3 ∧
        rosterEntry base.roster.record 3 = some (entryOf 3 .carrying 8)) ∧
      (rosterAfter 5 .empty base = [(3, .carrying, 8), (4, .carrying, 8)] ∧
        rosterAfter 5 .seated base = [(3, .carrying, 8), (4, .carrying, 8), (5, .seated, 0)] ∧
        rosterAfter 5 .ready base = [(3, .carrying, 6), (4, .carrying, 5), (5, .carrying, 5)]) ∧
      (3 ≤ (entries base [entryOf 3 .ready 0, entryOf 4 .ready 0, entryOf 6 .ready 0]).roster.record.entries.length ∧
        (after (.beacon 5 .all (bayBeacon .ready)) (entries base [entryOf 3 .ready 0, entryOf 4 .ready 0, entryOf 6 .ready 0])).hasCond
          .bayExcess = true) ∧
      (rosterAfter 3 .empty base = [(4, .carrying, 16)] ∧ rosterAfter 3 .lost base = [(3, .lost, 0), (4, .carrying, 16)] ∧
        rosterAfter 3 .carrying base = [(3, .carrying, 8), (4, .carrying, 8)]) := by decide +kernel

theorem meets_BayBeaconsAreTriggers :
    ((∀ y ∈ base.roster.record.entries, y.station = 3 → y.silent = false) ∧
        (after (.beacon 3 .all (bayBeacon .carrying)) base).roster.record.version = 8 ∧
        (after (.beacon 3 .all (bayBeacon .carrying)) (hushed base 3)).roster.record.version = 8 ∧
        rosterAfter 3 .carrying (hushed base 3) = [(3, .carrying, 8), (4, .carrying, 8)]) := by decide +kernel

theorem meets_SilenceIsMarkedAndTaken :
    (∀ s ∈ [base, deferred, lid, bay .carrying], s.awake = true ∧ (s.peer 1).silent = (s.sys.role == .base && s.sys.station == 1)) ∧
      (base.peer 3).silent = false ∧ base.rosterActive = true ∧ base.roster.slot = none ∧ base.coord.state = .calm ∧
      rosterEntry base.roster.record 3 ≠ none ∧
      (deferred.sys.role = .base ∧ deferred.link.deferred = true ∧
        ∀ j, j < deferred.sys.station → j ≠ 1 → deferred.present j .base = false) ∧
      (lid.sys.role ≠ .base ∧ (lid.peer 1).role = some .base ∧ ∀ j, j ≠ 1 → lid.present j .base = false) ∧
      ((after (.peerSilent 3) (busy base)).roster.record.entries.map Entry.silent = [true, false] ∧
        (∀ e ∈ base.roster.record.entries, e.station = 5 → e.silent = true) ∧
        (after (.peerSilent 5) base).roster = base.roster) ∧
      (after (.peerSilent 1) deferred).link.deferred = false ∧ (after (.peerSilent 1) lid).hasCond .baseSilent = true ∧
      (after (.peerSilent 1) { bay .carrying with bay := { (bay .carrying).bay with ask := .waiting 1 } }).bay.refused =
        some 2000 := by decide +kernel

theorem meets_TheLastParticipantFallsSilent :
    ((episodeAt .checking .closing [2]).awake = true ∧ ((episodeAt .checking .closing [2]).peer 3).silent = false ∧
        (episodeAt .checking .closing [2]).rosterActive = true ∧ (episodeAt .checking .closing [2]).lineRests = true ∧
        (episodeAt .checking .closing [2]).running = true ∧ (episodeAt .checking .closing [2]).roster.slot = none ∧
        (∀ p ∈ (episodeAt .checking .closing [2]).coord.participants,
          p.mark = .settled ∨ p.dropped = true ∨ p.station = 3 ∧ p.result = none)) ∧
      (after (.peerSilent 3) (episodeAt .checking .closing [2])).coord = {} ∧
      (after (.peerSilent 3) (episodeAt .checking .closing [2])).link.queue.head? =
        some { target := .all, body := .calm 5 .allSettled 1 [3] } := by decide +kernel

/-- The handover of station 3, with its CARRYING taker at a charge, and station 5 in a state beside it. -/
def weakTaker (phase : SlotPhase) (charge : Nat) (other : EntryState) : State :=
  entries (handover phase) [entryOf 3 .releasing 0, { entryOf 4 .carrying 16 with charge := charge }, entryOf 5 other 0]

theorem meets_ATakerFallsSilent :
    (∀ x ∈ [(SlotPhase.shifting, 80, EntryState.seated), (.shifting, 4, .ready), (.shifting, 4, .seated), (.freeing, 4, .seated)],
        ((weakTaker x.1 x.2.1 x.2.2).awake = true ∧ ((weakTaker x.1 x.2.1 x.2.2).peer 4).silent = false ∧
          (weakTaker x.1 x.2.1 x.2.2).rosterActive = true ∧ (weakTaker x.1 x.2.1 x.2.2).coord.state = .calm ∧
          (weakTaker x.1 x.2.1 x.2.2).roster.waitList = [] ∧
          (weakTaker x.1 x.2.1 x.2.2).roster.record.entries.Pairwise (fun a b => a.station < b.station)) ∧
        coverFor 5 (mapEntry (weakTaker x.1 x.2.1 x.2.2).roster.record 4 fun e => { e with silent := true }) 3 =
          decide (x.2.1 = 80 ∨ x.2.2 = .ready)) ∧
      (((after (.peerSilent 4) (weakTaker .shifting 80 .seated)).roster.slot.map fun sl => (sl.takers, sl.lostTakers)) =
          some ([], [4]) ∧
        rosterEntry (after (.peerSilent 4) (weakTaker .shifting 80 .seated)).roster.record 4 =
          some { entryOf 4 .carrying 16 with silent := true } ∧
        ((after (.peerSilent 4) (weakTaker .shifting 4 .ready)).roster.slot.map fun sl => (sl.takers, sl.lostTakers)) =
          some ([5], [4]) ∧
        ((after (.peerSilent 4) (weakTaker .freeing 4 .seated)).roster.slot.map fun sl => (sl.takers, sl.lostTakers)) =
          some ([], [4])) ∧
      ((after (.peerSilent 4) (weakTaker .shifting 4 .seated)).roster.slot = none ∧
        (after (.peerSilent 4) (weakTaker .shifting 4 .seated)).hasCond .swapAbort = true ∧
        { target := .station 3, body := .releaseNo .coverLost } ∈
          (after (.peerSilent 4) (weakTaker .shifting 4 .seated)).link.queue) := by decide +kernel

/-! ### The roster and the handover -/

theorem test_eligibility_bounds :
    eligible 5 { entryOf 3 .ready 0 with charge := 5 } = true ∧ eligible 5 { entryOf 3 .ready 0 with charge := 4 } = false ∧
      eligible 5 { entryOf 3 .ready 0 with silent := true } = false ∧
      eligible 5 { entryOf 3 .carrying 0 with silent := true } = true ∧
      eligible 5 { entryOf 3 .carrying 0 with temperature := .hot } = false ∧
      eligible 5 (entryOf 3 .releasing 0) = false ∧ coverFor 5 shared 3 = true ∧
      coverFor 5 { shared with entries := [entryOf 3 .carrying 16] } 3 = false ∧
      coverFor 5 { shared with adapter := true, entries := [] } 3 = true := by decide +kernel

/-- A roster of three READY bays. -/
def three : Roster := { shared with entries := [entryOf 3 .ready 0, entryOf 4 .ready 0, entryOf 5 .ready 0] }

theorem meets_AllocationHoldsTheRosterLaw :
    (three.adapter = false ∧ three.entries.length ≤ 3) ∧
      (recomputed 5 three).entries.map Entry.weight = [6, 5, 5] ∧ (recomputed 5 three).allowance = 1200 ∧
      (recomputed 5 { three with adapter := true }).entries.map Entry.weight = [0, 0, 0] ∧
      (recomputed 5 { three with adapter := true }).allowance = 1500 ∧
      (recomputed 5 { three with entries := [entryOf 3 .seated 0] }).allowance = 0 ∧
      (recomputed 5 { three with entries := [{ entryOf 3 .ready 0 with charge := 1 }] }).entries.map Entry.weight = [16] ∧
      (recomputed 5 { shared with entries := [{ entryOf 3 .carrying 8 with temperature := .warm },
        entryOf 4 .carrying 8] }).allowance = 675 := by decide +kernel

theorem meets_TheSharesOfNine :
    (three.entries.Pairwise (fun a b => a.station < b.station) ∧ three.entries.countP (eligible 5) = 3) ∧
      (recomputed 5 { three with entries := [entryOf 3 .ready 0, { entryOf 4 .carrying 8 with charge := 4 },
        entryOf 5 .carrying 8] }).entries = [entryOf 3 .carrying 8, { entryOf 4 .ready 0 with charge := 4 },
          entryOf 5 .carrying 8] ∧
      ((recomputed 5 { three with entries := three.entries.map fun e => { e with charge := 4 } }).entries.map
        Entry.weight) = [6, 5, 5] ∧
      (recomputed 5 { three with entries := [entryOf 3 .seated 9, { entryOf 4 .ready 0 with charge := 4 }] }).entries =
        [entryOf 3 .seated 0, { entryOf 4 .carrying 16 with charge := 4 }] := by decide +kernel

/-- The BASE with one READY bay of a charge. -/
def oneBay (charge : Nat) (silent : Bool) : State :=
  entries (busy base) [{ entryOf 3 .ready 0 with charge := charge, silent := silent }]

theorem meets_ALastResortBelowTheReserve :
    ((oneBay 4 false).config.reserve = 5 ∧ (oneBay 4 false).roster.record.adapter = false ∧
        (∀ x ∈ [(4, false), (4, true), (5, true)], ∀ e ∈ (oneBay x.1 x.2).roster.record.entries, eligible 5 e = false) ∧
        ∀ e ∈ (oneBay 5 false).roster.record.entries, eligible 5 e = true) ∧
      (oneBay 4 false).recompute.hasCond .lowReserve = true ∧ (oneBay 4 true).recompute.hasCond .lowReserve = true ∧
      (oneBay 5 true).recompute.hasCond .lowReserve = false ∧ (oneBay 5 false).recompute.hasCond .lowReserve = false := by
  decide +kernel

theorem meets_BayNotesMoveTheEntry :
    (∀ kind ∈ [Kind.lost, .fault, .gone, .taken], base.admits kind 3 .all = true ∧ lid.admits kind 3 .all = true) ∧
      (base.heard 3).rosterActive = true ∧ rosterEntry (base.heard 3).roster.record 3 ≠ none ∧
      rosterEntry (base.heard 5).roster.record 5 = none ∧ (lid.heard 3).rosterActive = false ∧
      (base.heard 3).roster.slot = none ∧
      (after (.lost 3 .all) (busy base)).roster.record.entries.map Entry.state = [.lost, .carrying] ∧
      (after (.lost 3 .all) (busy base)).roster.record.entries.map Entry.weight = [0, 16] ∧
      (after (.gone 3 .all) (busy base)).roster.record.entries.map Entry.state = [.freed, .carrying] := by decide +kernel

/-- The handover with both ends met. -/
def endsMet (phase : SlotPhase) : State :=
  { handover phase with roster := { (handover phase).roster with
      slot := (handover phase).roster.slot.map fun sl => { sl with drained := true, confirmed := [4] } } }

/-- What the SWAP records that wait say: outcome, leaving station; takers, confirmed and lost takers. -/
def swaps (s : State) : List (SwapOutcome × Station × List (List Station)) :=
  s.store.queue.filterMap fun q => match q.content with
    | .swap x => some (x.outcome, x.leaving, [x.takers, x.confirmed, x.lostTakers])
    | _ => none

theorem meets_BayNotesEndTheHandover :
    (∀ phase ∈ [SlotPhase.shifting, .freeing], ∀ kind ∈ [Kind.lost, .fault, .gone],
        (endsMet phase).admits kind 3 .all = true ∧ ((endsMet phase).heard 3).rosterActive = true ∧
        rosterEntry ((endsMet phase).heard 3).roster.record 3 ≠ none ∧ (endsMet phase).roster.waitList = [] ∧
        (endsMet phase).roster.slot.map (fun sl => (sl.leaving, sl.letGoSent)) = some (3, phase == .freeing) ∧
        (endsMet phase).store.engine = .check ∧ (endsMet phase).store.queue = []) := by decide +kernel

theorem test_the_records_of_a_handover :
    (swaps (after (.gone 3 .all) (endsMet .freeing)) = [(.complete, 3, [[4], [4], []])] ∧
        swaps (after (.lost 3 .all) (endsMet .freeing)) = [(.complete, 3, [[4], [4], []])]) ∧
      swaps (after (.lost 3 .all) (endsMet .shifting)) = [(.yanked, 3, [[4], [4], []])] ∧
      swaps (after (.fault 3 .all .hot) (endsMet .shifting)) = [(.faulted, 3, [[], [], []])] := by
  decide +kernel

theorem test_the_slot_after_a_handover :
    (after (.gone 3 .all) (endsMet .freeing)).roster.slot = none ∧
      (after (.fault 3 .all .hot) (endsMet .shifting)).hasCond .swapAbort = true ∧
      ((after (.fault 3 .all .hot) (endsMet .freeing)).roster.slot.map Slot.letGoSent) = some true := by
  decide +kernel

/-- The handover with the allowance of its one bay. -/
def allowed : State :=
  { handover .shifting with roster := { (handover .shifting).roster with
      record := { (handover .shifting).roster.record with allowance := 500 } } }

/-- The handover of station 3, with station 5 CARRYING and stations that wait. -/
def waitingFor (ws : List Waiter) : State :=
  { handover .shifting with roster := { (handover .shifting).roster with
      record := { (handover .shifting).roster.record with
        entries := [entryOf 3 .releasing 0, entryOf 4 .carrying 8, entryOf 5 .carrying 8] }
      waitList := ws } }

theorem meets_ABeaconConfirmsATaker :
    ((allowed.heard 4).rosterActive = true ∧ ((allowed.heard 4).roster.slot.map Slot.takers) = some [4] ∧
        (4 : Station) ≠ allowed.sys.station ∧ (bayBeacon .carrying).summary =
          .bay { readySummary with state := .carrying, pathClosed := true } ∧
        rosterEntry ((allowed.heard 4).sync 4).roster.record 4 = some (entryOf 4 .carrying 16)) ∧
      (∀ r : Roster, r = mapEntry allowed.roster.record 4 (fun e => { e with charge := 100 }) →
        stateIs r 4 .carrying = true ∧ recomputed 5 r = r) ∧
      ((after (.beacon 4 .all (bayBeacon .carrying)) allowed).roster.slot.map Slot.confirmed) = some [4] := by
  refine ⟨by decide +kernel, ?_, by decide +kernel⟩
  rintro r rfl
  decide +kernel

theorem meets_ALostTakerLeaves :
    (∀ kind ∈ [Kind.lost, .fault, .gone], ∀ s ∈ [handover .shifting, handover .freeing, waitingFor []],
        s.admits kind 4 .all = true ∧ (s.heard 4).rosterActive = true ∧
        rosterEntry (s.heard 4).roster.record 4 ≠ none ∧ s.roster.waitList = [] ∧
        (s.roster.slot.map fun sl => (sl.leaving, sl.takers)) = some (3, [4])) ∧
      (coverFor 5 (noteState (waitingFor []).roster.record 4 .lost) 3 = true ∧
        coverFor 5 (noteState (handover .shifting).roster.record 4 .lost) 3 = false) ∧
      ((after (.lost 4 .all) (waitingFor [])).roster.slot.map fun sl => (sl.takers, sl.lostTakers)) = some ([], [4]) ∧
      (((after (.gone 4 .all) (handover .freeing)).roster.slot.map fun sl => (sl.takers, sl.lostTakers)) =
        some ([], [4])) ∧
      swaps (after (.lost 4 .all) (handover .shifting)) = [(.coverLost, 3, [[], [], [4]])] ∧
      (after (.lost 4 .all) (handover .shifting)).roster.slot = none := by decide +kernel

theorem meets_TakersAreConfirmed :
    (handover .shifting).admits .taken 4 .all = true ∧ ((handover .shifting).heard 4).rosterActive = true ∧
      ((handover .shifting).heard 4).roster = (handover .shifting).roster ∧
      stateIs (handover .shifting).roster.record 4 .carrying = true ∧
      stateIs (handover .shifting).roster.record 3 .releasing = true ∧
      stateIs (handover .shifting).roster.record 3 .ready = false ∧
      stateIs (handover .shifting).roster.record 3 .carrying = false ∧
      (recomputed (handover .shifting).config.reserve { (handover .shifting).roster.record with allowance := 500 } =
        { (handover .shifting).roster.record with allowance := 500 }) ∧
      ((after (.taken 4 .all 7) (handover .shifting)).roster.slot.map Slot.confirmed) = some [4] := by decide +kernel

theorem meets_DrainedMarksTheSlot :
    (∀ phase ∈ [SlotPhase.shifting, .freeing, .suspended], (handover phase).admits .drained 3 .all = true ∧
        ((handover phase).heard 3).rosterActive = true ∧
        ((handover phase).heard 3).roster.slot.map Slot.leaving = some 3) ∧
      (handover .shifting).admits .drained 4 .all = true ∧ (base.heard 3).roster.slot = none ∧
      base.admits .drained 3 .all = true ∧ (lid.heard 3).rosterActive = false ∧ lid.admits .drained 3 .all = true ∧
      ((((handover .shifting).heard 3).lags 3 = false ∧ ((hushed (handover .shifting) 3).heard 3).lags 3 = true ∧
          ((hushed (handover .shifting) 4).heard 4).lags 4 = true ∧
          stateIs ((hushed (handover .shifting) 3).heard 3).roster.record 4 .carrying = true) ∧
        ((after (.drained 3 .all 0) (hushed (handover .shifting) 3)).roster.slot.map Slot.drained) = some true) ∧
      ((after (.drained 3 .all 0) (handover .suspended)).roster.slot.map Slot.drained) = some true ∧
      ((after (.drained 4 .all 0) (handover .shifting)).roster.slot.map Slot.drained) = some false := by decide +kernel

theorem meets_LetGoIsSentWhenBothEndsAreMet :
    base.roster.slot = none ∧
      ((endsMet .shifting).roster.slot.map fun sl => (sl.phase, sl.drained, sl.takers, sl.confirmed)) =
        some (.shifting, true, [4], [4]) ∧
      (endsMet .shifting).takesKind .letGo = true ∧ roomOrdinary (endsMet .shifting).link.queue = true ∧
      (endsMet .shifting).letGoTest.link.queue = [{ target := .station 3, body := .letGo .handover }] ∧
      (endsMet .suspended).letGoTest = endsMet .suspended := by decide +kernel

theorem meets_ReleaseAsksPassTheirChecks :
    (base.admits .releaseAsk 3 .all = true ∧ (base.heard 3).publishing = true) ∧
      (((inListen base).heard 3).publishing = false ∧ (inListen base).admits .releaseAsk 3 .all = true) ∧
      (base.admits .releaseAsk 5 .all = true ∧ rosterEntry (base.heard 5).roster.record 5 = none) ∧
      (∀ st ∈ [EntryState.freed, .lost, .seated, .ready, .faulted, .carrying, .releasing],
        rosterEntry (entries base [entryOf 3 st 0]).roster.record 3 = some (entryOf 3 st 0)) ∧
      ({ base with coord := { base.coord with state := .opened } }.heard 3).coord.state ≠ .calm ∧
      (handover .shifting).roster.slot.map Slot.leaving = some 3 ∧
      (after (.releaseAsk 3 .all .lever) (entries base [entryOf 3 .lost 0])).link.queue =
        [{ target := .station 3, body := .releaseNo .unknown }] ∧
      (after (.releaseAsk 3 .all .lever) (busy (entries base [entryOf 3 .ready 0]))).link.queue =
        [{ target := .station 3, body := .letGo .noHandover }] ∧
      (((hushed base 3).heard 3).lags 3 = true ∧ ((hushed base 3).heard 3).publishing = true ∧
        (after (.releaseAsk 3 .all .lever) (hushed (entries base [entryOf 3 .lost 0]) 3)).link.queue.map Note.kind =
          [.releaseNo, .roster] ∧
        (after (.releaseAsk 3 .all .lever) (hushed base 3)).roster.record.version = 8) ∧
      ((base.heard 3).coord.state = .calm ∧ (base.heard 3).roster.slot = none ∧ (base.heard 3).roster.waitList = [] ∧
        coverFor 5 (base.heard 3).roster.record 3 = true ∧
        coverFor 5 (entries base [entryOf 3 .carrying 16]).roster.record 3 = false) ∧
      ((after (.releaseAsk 3 .all .lever) base).roster.slot.map Slot.takers) = some [] ∧
      (after (.releaseAsk 3 .all .lever) base).roster.record.entries.map Entry.weight = [0, 16] ∧
      (after (.releaseAsk 3 .all .lever) (entries base [entryOf 3 .carrying 16])).link.queue =
        [{ target := .station 3, body := .releaseNo .noCover }] := by decide +kernel

theorem meets_ReleaseAskOfABusySlotWaits :
    (waitingFor []).admits .releaseAsk 5 .all = true ∧ ((waitingFor []).heard 5).publishing = true ∧
      rosterEntry ((waitingFor []).heard 5).roster.record 5 = some (entryOf 5 .carrying 8) ∧
      ((waitingFor []).heard 5).coord.state = .calm ∧
      ((waitingFor []).heard 5).roster.slot.map Slot.leaving = some 3 ∧
      ((after (.releaseAsk 5 .all .lever) (waitingFor [{ station := 4, origin := .lever }])).link.queue =
        [{ target := .station 5, body := .releaseWait 2 }]) ∧
      ((after (.releaseAsk 5 .all .lever) (waitingFor [{ station := 4, origin := .lever },
          { station := 6, origin := .lever }])).link.queue = [{ target := .station 5, body := .releaseNo .full }]) ∧
      (((waitingFor []).heard 5).lags 5 = false ∧ ((hushed (waitingFor []) 5).heard 5).lags 5 = true ∧
        (after (.releaseAsk 5 .all .lever) (hushed (waitingFor []) 5)).link.queue.map Note.kind =
          [.releaseWait, .roster]) := by decide +kernel

theorem test_a_silence_ends_before_the_note :
    (((hushed (entries base [entryOf 3 .ready 0, entryOf 4 .carrying 16]) 3).heard 3).takeSilence shared 3).roster.record.entries =
        [entryOf 3 .carrying 8, entryOf 4 .carrying 8] ∧
      ((after (.releaseAsk 3 .all .lever) (hushed (entries base [entryOf 3 .ready 0, entryOf 4 .carrying 16]) 3)).roster.slot.map
        Slot.leaving) = some 3 ∧
      ((after (.taken 5 .all 7) (hushed (entries (handover .shifting) [entryOf 3 .releasing 0, entryOf 4 .carrying 16,
        entryOf 5 .ready 0]) 5)).roster.slot.map fun sl => (sl.takers, sl.confirmed)) = some ([4, 5], []) ∧
      (rosterAfter 3 .ready (hushed (entries base [entryOf 3 .ready 0, entryOf 4 .carrying 16]) 3) =
        [(3, .carrying, 8), (4, .carrying, 8)]) := by decide +kernel

theorem test_one_recomputation_for_a_silence_and_its_note :
    (((hushed (oneBay 4 false) 3).heard 3).takeSilence shared 3).hasCond .lowReserve = true ∧
      (after (.beacon 3 .all (bayBeacon .ready)) (hushed (oneBay 4 false) 3)).hasCond .lowReserve = false ∧
      (after (.beacon 3 .all (bayBeacon .ready)) (hushed (oneBay 4 false) 3)).roster.record.entries.map Entry.weight =
        [16] := by decide +kernel

/-- The handover after LET-GO, its leaving bay FAULTED since. -/
def hotLeaving : State := entries (handover .freeing) [entryOf 3 .faulted 0, entryOf 4 .carrying 16]

theorem meets_TheLeavingEntryIsHeld :
    ((hotLeaving.roster.slot.map Slot.leaving) = some 3 ∧ base.roster.slot = none ∧
        (mapEntry hotLeaving.roster.record 3 heldLeaving) = hotLeaving.roster.record ∧
        heldLeaving (entryOf 3 .carrying 8) = entryOf 3 .releasing 8) ∧
      (∀ st ∈ [BayState.carrying, .releasing, .ready], rosterAfter 3 st hotLeaving = [(3, .releasing, 0), (4, .carrying, 16)]) ∧
      rosterAfter 3 .seated hotLeaving = [(3, .seated, 0), (4, .carrying, 16)] ∧
      (entries (handover .freeing) [{ entryOf 3 .ready 0 with charge := 4 }]).recompute.hasCond .lowReserve = false := by
  decide +kernel

theorem meets_AChangeIsPublished :
    (base.publishing = true ∧ (inListen base).publishing = false ∧
        base.link.queue.length + base.roster.waitList.length ≤ 2) ∧
      (∀ c ∈ [Instr.lost 3 .all, .beacon 3 .all (bayBeacon .faulted), .adapterChange true],
        (after c base).roster.record.version = 8 ∧ (after c base).roster.publishTimer = some 1000 ∧
        { target := .all, body := .roster (after c base).roster.record } ∈ (after c base).link.queue ∧
        (after c (inListen base)).roster.record.version = 7 ∧ (after c (inListen base)).link.queue = []) ∧
      ((after (.taken 4 .all 7) allowed).roster.record = allowed.roster.record ∧
        sent (.taken 4 .all 7) allowed = []) := by decide +kernel

/-- A start that moves a READY bay, as no run leaves one: its allocation has not been made. -/
def stale (ws : List Station) : State :=
  { busy (entries base [entryOf 3 .carrying 8, entryOf 4 .carrying 8, entryOf 5 .ready 0]) with roster := {
    (entries base [entryOf 3 .carrying 8, entryOf 4 .carrying 8, entryOf 5 .ready 0]).roster with
      waitList := ws.map fun k => { station := k, origin := .lever } } }

theorem meets_AStartTakesItsTakers :
    ((stale []).admits .releaseAsk 3 .all = true ∧ (stale []).roster.slot = none ∧
        coverFor 5 (stale []).roster.record 3 = true) ∧
      (∀ s ∈ [after (.releaseAsk 3 .all .lever) (stale []), (stale [3]).serveList shared],
        s.roster.record.entries.map (fun e => (e.station, e.state, e.weight)) =
          [(3, .releasing, 0), (4, .carrying, 8), (5, .carrying, 8)] ∧
        s.roster.record.allowance = 900 ∧ s.roster.slot.map Slot.takers = some [5]) := by decide +kernel

/-- The BASE with other entries, its slot IDLE, and stations that wait. -/
def idleFor (es : List Entry) (ws : List Station) : State :=
  { busy (entries base es) with roster := { (entries base es).roster with
      waitList := ws.map fun k => { station := k, origin := .lever } } }

theorem meets_TheWaitListIsServed :
    (∀ es ∈ [[], [entryOf 3 .lost 0], [entryOf 3 .ready 0], [entryOf 3 .carrying 16],
        [entryOf 3 .carrying 8, entryOf 4 .carrying 8]], (idleFor es [3, 4]).roster.slot = none ∧
          (idleFor es [3, 4]).coord.state = .calm ∧
          (idleFor es [3, 4]).roster.waitList.map Waiter.station = [3, 4]) ∧
      (coverFor 5 (idleFor [entryOf 3 .carrying 16] []).roster.record 3 = false ∧
        coverFor 5 (idleFor [entryOf 3 .carrying 8, entryOf 4 .carrying 8] []).roster.record 3 = true) ∧
      (∀ es ∈ [[], [entryOf 3 .lost 0]], ((idleFor es [3]).serveList shared).link.queue =
        [{ target := .station 3, body := .releaseNo .unknown }]) ∧
      ((idleFor [entryOf 3 .ready 0] [3]).serveList shared).link.queue =
        [{ target := .station 3, body := .letGo .noHandover }] ∧
      ((idleFor [entryOf 3 .carrying 16] [3]).serveList shared).link.queue =
        [{ target := .station 3, body := .releaseNo .noCover }] ∧
      (((idleFor [entryOf 3 .carrying 8, entryOf 4 .carrying 8] [3, 4]).serveList shared).roster.slot.map Slot.leaving) =
        some 3 ∧
      (((idleFor [entryOf 3 .carrying 8, entryOf 4 .carrying 8] [3, 4]).serveList shared).roster.waitList.map
        Waiter.station) = [4] := by decide +kernel

theorem meets_GoneServesTheList :
    ∀ s, s = waitingFor [{ station := 5, origin := .console }, { station := 4, origin := .lever }] →
      (s.admits .gone 3 .all = true ∧ (s.heard 3).rosterActive = true ∧
        rosterEntry (s.heard 3).roster.record 3 ≠ none ∧ (s.heard 3).coord.state = .calm ∧
        (s.roster.slot.map Slot.leaving) = some 3) ∧
      (stateIs (recomputed 5 (noteState s.roster.record 3 .freed)) 5 .carrying = true ∧
        coverFor 5 (recomputed 5 (noteState s.roster.record 3 .freed)) 5 = true) ∧
      ((after (.gone 3 .all) s).roster.slot.map fun sl => (sl.leaving, sl.phase)) = some (5, .shifting) := by
  rintro s rfl
  decide +kernel

theorem meets_TheBaseTakesItsTimersAndItsLine :
    (base.publishing = true ∧ base.roster.publishTimer ≠ none ∧ (inListen base).publishing = false ∧
        { base with roster := RosterUnit.reset false }.roster.publishTimer = none) ∧
      (after (.publishTimer 100) base).roster.record.version = 7 ∧
      (after (.publishTimer 101) base).roster.record.version = 8 ∧ sent (.publishTimer 100) base = [.roster] ∧
      (∀ phase ∈ [SlotPhase.shifting, .freeing], (handover phase).publishing = true ∧
        (handover phase).roster.handoverTimer ≠ none ∧ (handover phase).roster.slot.map Slot.phase = some phase) ∧
      (after .handoverTimer (handover .freeing)).link.queue = [{ target := .station 3, body := .letGo .handover }] ∧
      ((handover .shifting).roster.waitList = [] ∧ stateIs (handover .shifting).roster.record 3 .releasing = true ∧
        ((handover .shifting).peer 3).summary = none) ∧
      (after .handoverTimer (handover .shifting)).hasCond .swapAbort = true ∧
      base.pins.adapter = false ∧ base.rosterActive = true ∧ base.roster.slot = none ∧
      (after (.adapterChange true) base).roster.record.allowance = 1500 ∧
      (deferred.plays .base = true ∧ deferred.link.deferred = true ∧ deferred.pins.adapter = false ∧
        lid.plays .base = false) := by decide +kernel

/-- A handover with READY bays beside the leaving one, as the adapter leaves them. -/
def adapted (takers : List Station) (drained : Bool) : State :=
  let s := handover .shifting
  { s with
    pins := { s.pins with adapter := takers.isEmpty }
    roster := { s.roster with
      slot := s.roster.slot.map fun sl => { sl with takers := takers, drained := drained }
      record := { s.roster.record with
        adapter := takers.isEmpty
        entries := [entryOf 3 .releasing 0, entryOf 4 (if takers.isEmpty then .ready else .carrying) 0] } } }

theorem meets_TheAdapterMovesTheTakers :
    (∀ x ∈ [([], false), ([4], true), ([4], false)], (adapted x.1 x.2).rosterActive = true ∧
        (adapted x.1 x.2).link.queue.length ≤ 2 ∧ (adapted x.1 x.2).running = true ∧
        ∀ j ∈ x.1, stateIs (adapted x.1 x.2).roster.record j .carrying = true) ∧
      ((after (.adapterChange false) (adapted [] false)).roster.slot.map fun sl => (sl.takers, sl.phase)) =
        some ([4], .shifting) ∧
      ((after (.adapterChange true) (adapted [4] false)).roster.slot.map fun sl => (sl.takers, sl.lostTakers, sl.phase)) =
        some ([], [], .shifting) ∧
      ((after (.adapterChange true) (adapted [4] true)).roster.slot.map fun sl => (sl.takers, sl.phase)) =
        some ([], .freeing) ∧
      sent (.adapterChange true) (adapted [4] true) = [.roster, .letGo] ∧
      ((handover .shifting).link.queue.length ≤ 3 ∧
        { target := .station 3, body := .releaseNo .timeout } ∈ (after .handoverTimer (handover .shifting)).link.queue ∧
        swaps (after .handoverTimer (handover .shifting)) = [(.timeout, 3, [[4], [], []])]) := by decide +kernel

/-- A roster with every field at a bound of its range. -/
def widest : Roster :=
  { version := 65535, epoch := 255, adapter := true, load := 65535, allowance := 1500, leaving := some 7
    entries := [{ entryOf 1 .seated 0 with charge := 0, voltage := .low },
      { entryOf 6 .carrying 16 with charge := 100, temperature := .hot, silent := true, held := true },
      { entryOf 7 .faulted 16 with temperature := .warm, voltage := .mid }] }

theorem meets_RosterPayloadsSpellTheirRecord :
    rosterFits widest = true ∧ parseRoster (rosterPayload widest) = some widest ∧
      rosterFits { shared with entries := [], allowance := 0 } = true ∧ (rosterPayload widest).length = 16 := by
  decide +kernel

/-! ### The bay -/

/-- A bay without its pack. -/
def unseated (s : State) : State := { s with pins := { s.pins with present := false } }

/-- A bay whose lever is pulled. -/
def pulled (s : State) : State := { s with pins := { s.pins with lever := true } }

theorem meets_TheBayTakesItsTimers :
    (base.plays .bay = false ∧ (bay .ready).plays .bay = true) ∧
      ((withBay (bay .ready) fun b => { b with ask := .asked, answer := some 0 }).bay.ask = .asked ∧
        (bay .ready).bay.ask ≠ .asked) ∧
      (after .answerTimer (withBay (bay .ready) fun b => { b with ask := .asked, answer := some 0 })).bay.refused =
        some 2000 ∧
      ((after .coolingTimer (withBay (bay .faulted) fun b => { b with cooling := some 0 })).bay.state = .seated ∧
        (after .freedTimer (withBay (bay .freed) fun b => { b with freed := some 0 })).bay.state = .seated ∧
        (after .lostTimer (withBay (bay .lost) fun b => { b with lostWait := some 0 })).bay.check = some 300) ∧
      (after .freedTimer (unseated (withBay (bay .freed) fun b => { b with freed := some 0 }))).bay.state = .freed ∧
      ((inShock (bay .freed) .falling).shock.state ≠ .calm ∧ (bay .freed).pins.present = true ∧
        (bay .freed).shock.state = .calm) ∧
      ((unseated (bay .lost)).pins.present = false ∧ (after .lostTimer (unseated (withBay (busy (bay .lost)) fun b =>
        { b with lostWait := some 0, ask := .waiting 2 }))).bay.state = .empty) ∧
      (after .packCheckEnd (withBay (bay .seated) fun b => { b with check := some 0 })).bay.state = .ready ∧
      ((inShock (bay .ready) .checking).shock.closed = none ∧ ((inShock (bay .ready) .checking).shock.episode.map
        Episode.checkPending) = some false) ∧
      ((pulled (withBay (bay .carrying) fun b => { b with reAskDelay := some 0, reAsk := true })).mayAsk = true ∧
        (pulled (bay .carrying)).pins.lever = true) ∧
      sent .reAskDelayTimer (pulled (withBay (bay .carrying) fun b => { b with reAskDelay := some 0, reAsk := true })) =
        [.releaseAsk] ∧
      sent .reAskDelayTimer (withBay (bay .carrying) fun b => { b with reAskDelay := some 0, reAsk := true }) = [] := by
  decide +kernel

/-- A bay in CHECKING whose pack check is its role check. -/
def roleChecked : State :=
  let s := inShock (bay .ready) .checking
  { s with
    bay := { s.bay with check := some 0, checkForRole := true }
    shock := { s.shock with episode := s.shock.episode.map fun e => { e with checkPending := true } } }

theorem meets_TheRoleCheckOfABay :
    roleChecked.bay.check ≠ none ∧ roleChecked.bay.checkForRole = true ∧ roleChecked.shock.closed = none ∧
      roleChecked.shock.episode.map Episode.checkPending = some true ∧
      ((after .packCheckEnd roleChecked).shock.episode.map fun e => (e.checkPending, e.drop.checkResult)) =
        some (false, some .ok) := by decide +kernel

/-- A bay in a state whose role check runs, for its record in progress or, in CALM, for the closed one. -/
def resultDue (st : BayState) (late : Bool) : State :=
  let s := inShock (busy (bay st)) .checking
  let e := s.shock.episode.map fun e => { e with checkPending := true }
  { s with
    bay := { s.bay with check := some 0, checkForRole := true, lostWait := some 0 }
    shock := { s.shock with
      state := if late then .calm else .checking, episode := if late then none else e
      closed := if late then e else none } }

/-- The SETTLED notes that wait, with their targets: result and late. -/
def settleds (s : State) : List (Target × CheckResult × Bool) :=
  s.link.queue.filterMap fun n => match n.body with
    | .settled b => some (n.target, b.result, b.late)
    | _ => none

/-- What the DROP records that wait say of their role check. -/
def checksOf (s : State) : List (Option CheckResult) :=
  s.store.queue.filterMap fun q => match q.content with
    | .drop d _ => some d.checkResult
    | _ => none

theorem meets_ARoleCheckGivesItsResult :
    (∀ late ∈ [false, true], (resultDue .ready late).bay.checkForRole = true ∧ (resultDue .ready late).running = true ∧
        (resultDue .ready late).present 1 .base = true ∧ (resultDue .ready late).present 0 .base = false ∧
        (resultDue .ready late).link.queue.length ≤ 2 ∧ (resultDue .ready late).shock.closed.isSome = late) ∧
      (checksOf (after .packCheckEnd (resultDue .ready true)) = [some .ok] ∧
        (after .packCheckEnd (resultDue .ready true)).shock.closed = none ∧
        checksOf (after .packCheckEnd (resultDue .ready false)) = []) := by decide +kernel

theorem test_the_results_of_a_role_check :
    ([false, true].flatMap fun late => settleds (after .packCheckEnd (resultDue .ready late))
        ++ settleds (after .presentFall (resultDue .ready late))
        ++ settleds (after (.packSample 9000 0 20) (resultDue .ready late))
        ++ settleds (after .lostTimer (unseated (resultDue .lost late)))) =
      [(.station 1, .ok, false), (.station 1, .ok, false), (.station 1, .fault, false), (.station 1, .ok, false),
        (.station 1, .ok, true), (.station 1, .ok, true), (.station 1, .fault, true), (.station 1, .ok, true)] ∧
      [false, true].map (fun late => sent (.letGo 1 .all .handover) (resultDue .ready late)) =
        [[.gone, .settled], [.gone, .settled]] := by decide +kernel

theorem meets_ASettledIsOwedOrUnsent :
    ((inListen (resultDue .ready false)).listening = true ∧ (alone (resultDue .ready false)).present 1 .base = false) ∧
      ((after .packCheckEnd (inListen (resultDue .ready false))).shock.settledOwed.map SettledNote.count) = [5] ∧
      settleds (after .packCheckEnd (inListen (resultDue .ready false))) = [] ∧
      settleds (after .packCheckEnd (alone (resultDue .ready false))) = [] ∧
      ((withBay (bay .ready) fun b => { b with check := some 0, checkForRole := true }).shock.episode = none ∧
        settleds (after .packCheckEnd (withBay (bay .ready) fun b => { b with check := some 0, checkForRole := true })) =
          []) := by decide +kernel

theorem meets_TheBayTakesItsLines :
    ((bay .ready).pins.present = true ∧ (unseated (bay .empty)).pins.present = false ∧
        (unseated (bay .empty)).plays .bay = true ∧ base.plays .bay = false) ∧
      (after (.presentRise 80) (unseated (bay .empty))).bay.state = .seated ∧
      (∀ st ∈ [BayState.carrying, .releasing], (after .presentFall (busy (bay st))).bay.state = .lost ∧
        sent .presentFall (busy (bay st)) = [.lost]) ∧
      (∀ st ∈ [BayState.seated, .ready, .faulted, .freed], (after .presentFall (busy (bay st))).bay.state = .empty) ∧
      (∀ st ∈ [BayState.empty, .lost], (after .presentFall (bay st)).bay.state = st) ∧
      ((bay .ready).running = true ∧ placeNote (bay .carrying).link.queue
        { target := (bay .carrying).baseTarget, body := .lost } ≠ .refused) ∧
      ((pulled (bay .ready)).pins.lever = true ∧ (bay .ready).pins.lever = false ∧ (bay .ready).mayAsk = true ∧
        (bay .freed).mayAsk = false) ∧
      sent .leverRise (bay .carrying) = [.releaseAsk] ∧ sent .leverRise (bay .freed) = [] := by decide +kernel

/-- What the PACK records that wait say: cause, state before, charge and version. -/
def packs (s : State) : List (PackCause × BayState × Nat × Nat) :=
  s.store.queue.filterMap fun q => match q.content with
    | .pack p => some (p.cause, p.stateBefore, p.charge, p.version)
    | _ => none

theorem meets_TheBayRecordsItsEvents :
    ((busy (bay .ready)).store.engine = .check ∧ ordinaryRecords (busy (bay .ready)).store.queue < 6 ∧
        (busy (bay .ready)).store.queue.length < 7) ∧
      packs (after .presentFall (busy (bay .carrying))) = [(.lost, .carrying, 80, 7)] ∧
      packs (after .presentFall (busy (bay .seated))) = [(.pulled, .seated, 80, 7)] ∧
      packs (after .presentFall (busy (bay .freed))) = [] ∧ (bay .freed).bay.checkForRole = false ∧
      packs (after .rescueClose (busy (unfed (bay .ready)))) = [(.rescueClose, .ready, 80, 0)] := by decide +kernel

theorem meets_TheSamplesRecordTheirEvents :
    packs (after (.packSample 7999 0 20) (busy (bay .carrying))) = [(.lost, .carrying, 80, 7)] ∧
      sent (.packSample 7999 0 20) (busy (bay .carrying)) = [.lost] ∧
      packs (after (.packSample 12000 0 70) (busy (bay .ready))) = [(.hot, .ready, 80, 7)] ∧
      sent (.packSample 12000 0 70) (busy (bay .ready)) = [.fault, .attention] := by decide +kernel

/-- A CARRYING bay whose image holds an entry of its own. -/
def assigned (e : Entry) (rescue : Bool) : State :=
  { withBay (bay .carrying) (fun b => { b with rescueRating := rescue }) with
    image := some { sender := 1, record := { shared with load := 2000, entries := [e] } } }

theorem meets_TheOutputsOfABay :
    ((bay .empty).plays .bay = true ∧ (bay .empty).latch = some false ∧ (bay .freed).latch = some false ∧
        (inShock (bay .freed) .falling).latch = some true ∧ (bay .seated).latch = some true ∧
        strapFault.active = true ∧ strapFault.latch = some true ∧ (starting .bay []).active = true ∧
        (starting .bay []).sys.phase = .start ∧ (starting .bay []).latch = some true ∧
        (unpowered (bay .ready)).latch = none ∧ lid.latch = none) ∧
      ((withBay (bay .faulted) fun b => { b with refused := some 1 }).lamp = .refused ∧ (bay .faulted).lamp = .fault ∧
        (bay .freed).lamp = .free ∧ (inShock (bay .freed) .falling).lamp = .pending ∧ (bay .releasing).lamp = .pending ∧
        (withBay (bay .ready) fun b => { b with ask := .waiting 1 }).lamp = .pending ∧ (bay .ready).lamp = .dark) ∧
      ((bay .ready).pathLimit = 0 ∧ (bay .releasing).pathLimit = 0 ∧ (unfed (bay .carrying)).ownEntry = none ∧
        (unfed (bay .carrying)).pathLimit = 4000 ∧ (assigned (entryOf 4 .carrying 8) false).pathLimit = 4000 ∧
        (assigned (entryOf 3 .carrying 8) false).pathLimit = 1250 ∧
        (assigned (entryOf 3 .carrying 16) true).pathLimit = 2500 ∧ (assigned (entryOf 3 .ready 0) true).pathLimit = 4000 ∧
        (assigned (entryOf 3 .ready 0) false).pathLimit = 0 ∧
        (assigned (entryOf 3 .releasing 0) false).pathLimit = 0) := by decide +kernel

/-- A bay with a pack check under way. -/
def checked (st : BayState) : State := withBay (busy (bay st)) fun b => { b with check := some 100 }

/-- A READY bay with a run of low rail samples. -/
def railLow (n : Nat) : State := withBay (busy (bay .ready)) fun b => { b with railRun := n }

theorem meets_SamplesProtectThePack :
    ((bay .ready).plays .bay = true ∧ (checked .seated).bay.check ≠ none) ∧
      ((after (.packSample 9999 0 20) (checked .seated)).bay.state = .faulted ∧
        (after (.packSample 10000 0 59) (checked .seated)).bay.state = .seated ∧
        (after (.packSample 17000 0 59) (checked .seated)).bay.state = .seated ∧
        (after (.packSample 17001 0 59) (checked .seated)).bay.failing = some .voltage ∧
        (after (.packSample 17000 0 60) (checked .seated)).bay.failing = some .temperature) ∧
      ((after (.packSample 7999 0 69) (busy (bay .carrying))).bay.state = .lost ∧
        (after (.packSample 8000 0 69) (busy (bay .carrying))).bay.state = .carrying ∧
        (after (.packSample 8000 0 70) (busy (bay .carrying))).bay.cause = some .hot ∧
        (after (.packSample 0 0 70) (busy (bay .ready))).bay.state = .faulted) ∧
      (sent (.packSample 12000 149 20) (bay .releasing) = [.drained] ∧ sent (.packSample 12000 150 20) (bay .releasing) = []) ∧
      ((after (.railSample 8999) (railLow 19)).bay.state = .carrying ∧
        (after (.railSample 9000) (railLow 19)).bay.railRun = 0 ∧
        (after (.railSample 8999) (railLow 18)).bay.state = .ready) ∧
      ((after .rescueClose (busy (bay .ready))).bay.rescueRating = false ∧
        (after .rescueClose (busy (bay .ready))).pathLimit = 62 ∧
        (after .rescueClose (busy { bay .ready with image := none })).bay.rescueRating = true ∧
        (after .rescueClose (busy { bay .ready with image := none })).pathLimit = 4000) := by decide +kernel

theorem meets_TheBayTakesItsAnswers :
    (∀ kind ∈ [Kind.releaseWait, .releaseNo, .letGo],
        (bay .ready).admits kind 1 .all = true ∧ lid.admits kind 1 .all = true) ∧
      ((bay .ready).heard 1).plays .bay = true ∧ (lid.heard 1).plays .bay = false ∧
      (decide (ReleaseReason.held = .held) && decide (((pulled (bay .ready)).heard 1).bay.origin = .lever) &&
        ((pulled (bay .ready)).heard 1).pins.lever) = true ∧
      (after (.releaseNo 1 .all .held) (pulled (bay .ready))).bay.reAskDelay = some 1000 ∧
      (after (.releaseNo 1 .all .full) (pulled (bay .ready))).bay.reAskDelay = none ∧
      ((((bay .ready).heard 1).image.map Image.sender) = some 1 ∧ ((bay .empty).heard 1).bay.state = .empty) ∧
      (∀ st ∈ [BayState.releasing, .seated, .ready, .faulted],
        (after (.letGo 1 .all .handover) (busy (bay st))).bay.freed = some 30000 ∧
          sent (.letGo 1 .all .handover) (busy (bay st)) = [.gone]) ∧
      (after (.letGo 1 .all .handover) (bay .carrying)).bay.state = .carrying ∧
      (after (.letGo 1 .all .handover) (inListen (bay .ready))).bay.goneOwed = true := by decide +kernel

/-- A ROSTER of the next version with these entries. -/
def nextRoster (es : List Entry) : Roster := { shared with version := 8, entries := es }

/-- The part after that ROSTER comes from station 1. -/
def told (s : State) (es : List Entry) : State := after (.roster 1 .all (rosterPayload (nextRoster es))) s

theorem meets_TheImageIsReplacedAndTheBayActs :
    (parseRoster (rosterPayload (nextRoster [])) = some (nextRoster []) ∧
        parseRoster (rosterPayload shared) = some shared ∧ (bay .ready).admits .roster 1 .all = true ∧
        (part .base 5).admits .roster 1 .all = true ∧ lid.admits .roster 1 .all = true) ∧
      after (.roster 1 .all (rosterPayload shared)) (bay .ready) = (bay .ready).heard 1 ∧
      ((told (bay .ready) [entryOf 3 .carrying 1]).bay.state = .carrying ∧
        (told (bay .ready) [entryOf 3 .carrying 0]).bay.state = .ready ∧
        (told (inListen (bay .ready)) [entryOf 3 .carrying 1]).bay.state = .ready ∧
        (told (inShock (bay .ready) .falling) [entryOf 3 .carrying 1]).bay.state = .ready) ∧
      ((told (bay .carrying) [entryOf 3 .releasing 0]).bay.state = .releasing ∧
        (told (bay .carrying) [entryOf 3 .carrying 1]).bay.state = .carrying ∧
        (told (bay .carrying) []).bay.state = .ready ∧ (told (inListen (bay .carrying)) []).bay.state = .carrying ∧
        (told (withBay (bay .carrying) fun b => { b with grace := some 1 }) []).bay.state = .carrying) ∧
      ((told (bay .releasing) [entryOf 3 .carrying 0]).bay.state = .carrying ∧
        (told (bay .releasing) [entryOf 3 .releasing 0]).bay.state = .releasing ∧
        (told (bay .releasing) [entryOf 3 .seated 0]).bay.state = .ready ∧
        (told (inListen (bay .releasing)) [entryOf 3 .seated 0]).bay.state = .releasing ∧
        (told (inShock (bay .releasing) .falling) []).bay.state = .releasing) ∧
      (told (bay .faulted) [entryOf 3 .carrying 16]).bay.state = .faulted ∧
      ((told (inShock (bay .ready) .falling) []).shock.episode.map fun e => e.drop.duringHandover) = some false := by
  decide +kernel

/-- A bay that a rescue close has made CARRYING, in its grace. -/
def rescued : State := withBay (bay .carrying) fun b => { b with grace := some 900, rescueRating := true }

theorem test_a_carrying_entry_ends_the_rating :
    (told rescued [entryOf 3 .ready 0]).pathLimit = 4000 ∧ (told rescued [entryOf 3 .carrying 0]).pathLimit = 0 ∧
      (told rescued [entryOf 3 .carrying 0]).bay.grace = some 900 ∧
      (told { told rescued [entryOf 3 .carrying 0] with image := none } [entryOf 3 .ready 0]).pathLimit = 0 ∧
      (told rescued [entryOf 3 .ready 0]).bay.rescueRating = true ∧
      (told rescued [entryOf 3 .carrying 1]).bay.rescueRating = false := by decide +kernel

/-! ### The panel and its supply -/

/-- A LID whose panel has a demand in every zone, at the faders' tops. -/
def lit : State :=
  { lid with panel := { lid.panel with groupA := 255, ambient := 255 } }

/-- What each zone has: its demand, target and applied drive. -/
def drives (s : State) : List (Nat × Nat × Nat) := s.panel.zones.toList.map fun z => (z.demand, z.target, z.applied)

theorem meets_DemandsFollowTheirSteps :
    ((255 : Nat) ≤ 255 ∧ lit.panel.groupA ≤ 255 ∧ lit.panel.ambient ≤ 255 ∧
        ∀ z : ZoneId, lit.panel.zones[z].config.base ≤ 250) ∧
      (drives lit.retarget).map Prod.fst = [250, 250, 250, 250, 250, 250] ∧
      (drives (inShock lit .falling).retarget).map Prod.fst = [0, 0, 0, 0, 0, 0] ∧
      (drives { lit with panel := { lit.panel with groupA := 128 } }.retarget).map Prod.fst =
        [125, 125, 125, 125, 125, 125] := by decide +kernel

/-- The LID in BOOST. -/
def boosted (s : State) : State := { s with supply := { s.supply with stage := .boost } }

/-- The LID, its image's sender silent. -/
def unheard (s : State) : State := s.setPeer 1 { s.peer 1 with silent := true }

theorem meets_ClampStaysWithinTheAllowance :
    (lit.effective = 900 ∧ (boosted lit).effective = 600 ∧ (unfed lit).granted = 400 ∧ (unheard lit).granted = 400 ∧
        (bay .ready).image ≠ none ∧ (bay .ready).granted = 400) ∧
      (drives lit.retarget).map (fun d => d.2.1) = [0, 225, 225, 225, 225, 0] ∧
      (drives { lit with panel := { lit.panel with groupA := 160 } }.retarget).map (fun d => d.2.1) =
        [138, 156, 156, 156, 156, 138] ∧
      (sumZones lit.retarget.panel Zone.demand = 900 + 600 ∧
        sumZones lit.retarget.panel (fun z => if z.config.sheddable then z.demand else 0) = 500 ∧
        sumZones { lit with panel := { lit.panel with groupA := 160 } }.retarget.panel Zone.demand = 900 + 36) ∧
      sumZones lid.retarget.panel Zone.demand = 936 ∧
      sumZones { lid with panel := { lid.panel with groupA := 100 } }.retarget.panel Zone.demand ≤ 900 := by
  decide +kernel

theorem meets_StepKeepsTheAllowance :
    (sumZones lit.retarget.panel Zone.target ≤ lit.retarget.effective ∧ lit.retarget.plays .lid = true) ∧
      (after (.peerSilent 1) lit.retarget).effective = 400 ∧
      sumZones (after (.peerSilent 1) lit.retarget).panel Zone.target ≤ 400 := by decide +kernel

theorem meets_ReadingsAndTimersDriveThePanel :
    (base.plays .lid = false ∧ lid.plays .lid = true ∧ lid.panel.filter.length ≤ 10) ∧
      (List.replicate 10 0).length ≤ 10 ∧
      ((after (.ambientReading 120000) lid).panel.ambient = 255 ∧ (after (.ambientReading 0) lid).panel.ambient = 48 ∧
        (after (.ambientReading 70000) lid).panel.ambient = 247 ∧
        (after (.ambientReading 65000) lid).panel.ambient = 245) ∧
      (lid.config.curve.Pairwise (fun a b => a.1 < b.1 ∧ a.2 ≤ b.2) ∧ curveValue lid.config.curve 90000 = 255 ∧
        curveValue lid.config.curve 50 = 56 ∧ curveValue [(10, 7), (20, 9)] 9 = 7 ∧ curveValue [(10, 7), (20, 9)] 20 = 9) ∧
      (lid.panel.ramp = none ∧ ramping.panel.ramp ≠ none ∧ ramping.supply.test = none ∧
        (ramping.startTest .console).supply.test ≠ none ∧ ∀ z : ZoneId, ramping.pins.headroomLow[z] = false) ∧
      (after .rampTimer ramping).panel.zones[1].applied = 100 ∧
      ((lid.supply.offTimer = none ∧ ramping.panel.anyTarget = true) ∧
        ∀ z : ZoneId, demandOf (inShock lid .falling).panel 0 lid.panel.zones[z] = 0) ∧
      (after .offTimer { lid with
        supply := { stage := .pass, offTimer := some 0 }, shock := (inShock lid .falling).shock }).supply.stage = .off := by
  decide +kernel

/-- A LID with a driven zone, whose stage is in a state. -/
def driven (stage : Stage) (mode : BoostMode) : State :=
  { ramping with
    supply := { ramping.supply with stage := stage }
    config := { ramping.config with boostMode := mode } }

theorem meets_HeadroomReportsMakeTheBoostTest :
    (base.plays .lid = false ∧ ramping.plays .lid = true) ∧
      (ramping.supply.low = false ∧ (∀ y : ZoneId, ramping.pins.headroomLow[y] = false)) ∧
      ((driven .pass .auto).compared 1 = true ∧ (driven .pass .auto).imageReleasing = false ∧
        (driven .pass .auto).imageAdapter = false ∧ (driven .pass .auto).supply.low = false) ∧
      (after (.headroomReport 1 true) (driven .pass .auto)).supply.stage = .boost ∧
      ((after (.headroomReport 1 true) (driven .boost .auto)).hasCond .headroom = true ∧
        (after (.headroomReport 1 true) (driven .pass .pass)).hasCond .headroom = true ∧
        (after (.headroomReport 1 true) (driven .pass .pass)).supply.stage = .pass) ∧
      ((after (.headroomReport 1 true) (driven .boost .auto)).supply.low = true ∧
        (after (.headroomReport 1 false) (after (.headroomReport 1 true) (driven .boost .auto))).supply.indications[1] =
          .ok) := by decide +kernel

/-- What a string test measures, its zone 2 open. -/
def oneOpen : Vector Measure 6 := #v[.ok, .ok, .opened, .ok, .ok, .ok]

theorem meets_StringTestsHoldAndReport :
    (base.plays .lid = false ∧ lid.supply.test = none ∧ lid.plays .lid = true) ∧
      ((ramping.startTest .checking).supply.test =
        some { trigger := .checking, testSet := [0, 1, 2, 3, 4, 5], timer := 100 }) ∧
      (2 ∈ ([0, 1, 2, 3, 4, 5] : List ZoneId) ∧ oneOpen[2] ≠ .ok) ∧
      ((after (.stringTestEnd oneOpen) (busy (ramping.startTest .console))).panel.zones[2].enabled = false ∧
        (after (.stringTestEnd oneOpen) (busy (ramping.startTest .console))).hasCond .stringFault = true ∧
        sent (.stringTestEnd oneOpen) (busy (ramping.startTest .console)) = [.attention, .reply]) ∧
      ((ramping.startTest .console).running = true ∧ (ramping.startTest .console).link.queue.length ≤ 1 ∧
        (busy (ramping.startTest .console)).store.engine = .check ∧
        (∀ z ∈ ([0, 1, 2, 3, 4, 5] : List ZoneId), (Vector.replicate 6 Measure.ok)[z] = .ok ∧
          (ramping.startTest .console).panel.zones[z].enabled = true) ∧
        sent (.stringTestEnd (Vector.replicate 6 .ok)) (ramping.startTest .console) = [.reply]) ∧
      (∀ z : ZoneId, (ramping.startTest .console).stringCurrent z = 10) ∧
      ((inShock lid .checking).shock.closed = none ∧ (inShock lid .checking).shock.episode ≠ none) := by decide +kernel

/-- What the STRING records that wait say: trigger, disabled and changed zones, stage. -/
def strings (s : State) : List (TestTrigger × List ZoneId × List ZoneId × Stage) :=
  s.store.queue.filterMap fun q => match q.content with
    | .string r => some (r.trigger, r.disabled, r.changed, r.stage)
    | _ => none

/-- A LID with one zone DISABLED and a string test under way. -/
def redeemable : State :=
  let s := busy (ramping.startTest .start)
  { s with panel := { s.panel with zones := s.panel.zones.set 2 { s.panel.zones[2] with enabled := false } } }

theorem meets_AStringTestIsRecorded :
    strings (after (.stringTestEnd oneOpen) (busy (ramping.startTest .console))) = [(.console, [2], [2], .off)] ∧
      strings (after (.stringTestEnd (Vector.replicate 6 .ok)) redeemable) = [(.start, [], [2], .off)] ∧
      strings (after (.stringTestEnd (Vector.replicate 6 .ok)) (busy (ramping.startTest .start))) = [] := by
  decide +kernel

/-- A LID in CHECKING whose string test is its role check. -/
def roleTested : State :=
  let s := busy ((inShock ramping .checking).startTest .checking)
  { s with shock := { s.shock with episode := s.shock.episode.map fun e => { e with checkPending := true } } }

theorem meets_ATestedLidSettles :
    roleTested.present 1 .base = true ∧ roleTested.running = true ∧
      settleds (after (.stringTestEnd oneOpen) roleTested) = [(.station 1, .fault, false)] ∧
      settleds (after (.stringTestEnd (Vector.replicate 6 .ok)) roleTested) = [(.station 1, .ok, false)] := by
  decide +kernel

theorem meets_TheRoleCheckOfALid :
    roleTested.plays .lid = true ∧ roleTested.supply.test.map StringTest.trigger = some .checking ∧
      roleTested.shock.closed = none ∧ roleTested.shock.episode.map Episode.checkPending = some true ∧
      ((after (.stringTestEnd oneOpen) roleTested).shock.episode.map fun e => e.drop.checkResult) =
        some (some .fault) := by decide +kernel

theorem meets_TheConsoleSetsAndTestsThePanel :
    (∀ kind ∈ [Kind.setLevel, .testStrings], lid.admitsConsole kind 0 .all = true ∧
        base.admitsConsole kind 0 (.station 1) = true) ∧
      ((lid.heard 0).sys.role = .lid ∧ (base.heard 0).sys.role ≠ .lid) ∧
      (lid.panel.mode = .auto ∧ (after (.setLevel 0 .all (.val .keep) 0 (.val .fixed)) lid).panel.mode = .fixed ∧
        ambientMean [120000] = some 120000) ∧
      ((after (.setLevel 0 .all (.val .a) 255 (.val .keep)) lid).panel.groupA = 255 ∧
        (after (.setLevel 0 .all (.bad 9) 255 (.val .keep)) lid).panel.groupA = 160 ∧
        sent (.setLevel 0 .all (.bad 9) 255 (.val .keep)) lid = [.reply]) ∧
      ((inShock lid .falling).shock.state ≠ .calm ∧ (lid.heard 0).shock.state = .calm ∧
        (ramping.startTest .start).supply.test ≠ none) ∧
      (after (.testStrings 0 .all) lid).supply.test.isSome = true := by decide +kernel

theorem meets_SetLevelIsAnswered :
    (roomOrdinary (lid.heard 0).link.queue = true ∧ roomOrdinary ((crowded lid).heard 0).link.queue = false) ∧
      (after (.setLevel 0 .all (.val .a) 255 (.val .keep)) lid).link.queue =
        [{ target := .station 0, body := .reply .setLevel .done .none }] ∧
      ((after (.setLevel 0 .all (.val .a) 255 (.val .keep)) (crowded lid)).hasCond .linkOverrun = true ∧
        (after (.setLevel 0 .all (.val .a) 255 (.val .keep)) (crowded lid)).panel.groupA = 255) := by decide +kernel

/-- The part after a ROSTER with an adapter and entries comes from station 1. -/
def toldOf (s : State) (adapter : Bool) (es : List Entry) : State :=
  after (.roster 1 .all (rosterPayload { nextRoster es with adapter := adapter })) s

/-- A part in another boost mode. -/
def inMode (s : State) (m : BoostMode) : State := { s with config := { s.config with boostMode := m } }

/-- The LID with headroom low in one string. -/
def lowHeadroom (s : State) : State :=
  { s with
    supply := { s.supply with indications := s.supply.indications.set 1 .low }
    pins := { s.pins with headroomLow := s.pins.headroomLow.set 1 true } }

theorem meets_TheStageFollowsTheImage :
    ((∀ m ∈ [BoostMode.pass, .boost, .auto], (inMode lit m).plays .lid = true ∧ ∀ z : ZoneId, (inMode lit m).pins.headroomLow[z] = false) ∧
        (lowHeadroom (driven .pass .auto)).supply.low = true ∧ lit.admits .roster 1 .all = true) ∧
      ((∀ m ∈ [BoostMode.pass, .boost, .auto], (told (boosted (inMode lit m)) [entryOf 3 .releasing 0]).supply.stage = .pass) ∧
        (toldOf (boosted lit) true []).supply.stage = .pass ∧
        (toldOf (boosted (inMode lit .boost)) true []).supply.stage = .boost ∧
        (told (told (boosted (inMode lit .boost)) [entryOf 3 .releasing 0])
          [entryOf 3 .releasing 0]).supply.stage = .pass) ∧
      ((after (.roster 1 .all (rosterPayload { nextRoster [] with version := 9 }))
          (told (boosted (inMode lit .boost)) [entryOf 3 .releasing 0])).supply.stage = .boost ∧
        (after (.roster 1 .all (rosterPayload { nextRoster [] with version := 9 }))
          (told (boosted (inMode lit .auto)) [entryOf 3 .releasing 0])).supply.stage = .pass) ∧
      ((told (lowHeadroom (driven .pass .auto)) []).supply.stage = .boost ∧
        (toldOf (lowHeadroom (driven .pass .auto)) true []).hasCond .headroom = true ∧
        (told (lowHeadroom (driven .pass .pass)) []).hasCond .headroom = true) := by decide +kernel

theorem meets_TheTargetsFollowTheImage :
    ((lit.supply.stage = .off ∧ (∀ z : ZoneId, lit.panel.zones[z].target = 0) ∧
        lit.retarget.panel.zones[1].target ≠ 0) ∧
      (told lit []).supply.stage = .pass ∧ (told (inMode lit .boost) []).supply.stage = .boost ∧
      (told (inMode lit .boost) [entryOf 3 .releasing 0]).supply.stage = .pass ∧
      (drives (told lit [])).map (fun d => d.2.1) = [0, 225, 225, 225, 225, 0] ∧
      sumZones (told (inMode lit .boost) []).panel Zone.target = 600) := by decide +kernel

/-! ### Shock episodes -/

/-- A station with its free-fall run. -/
def floating (s : State) (n : Nat) : State := { s with shock := { s.shock with freeFall := n } }

/-- Another station drives the alert line. -/
def alarmed (s : State) : State := { s with pins := { s.pins with laOthers := true } }

/-- The station drives the alert line. -/
def driving (s : State) : State := { s with link := { s.link with laDrive := true } }

theorem meets_FallsStartAnEpisode :
    (lid.awake = true ∧ lid.shock.state = .calm ∧ lid.config.freeFallThreshold = 5 ∧ lid.config.fallTime = 40) ∧
      ((after (.motionSample 4 .x) (floating lid 39)).shock.state = .falling ∧
        (after (.motionSample 4 .x) (floating lid 38)).shock.freeFall = 39 ∧
        (after (.motionSample 5 .x) (floating lid 39)).shock.freeFall = 0) ∧
      (placeNote lid.link.queue { target := .all, body := .fall 1 40 } ≠ .refused ∧
        (after .ownFall lid).link.queue = [{ target := .all, body := .fall 1 40 }] ∧
        (after .ownFall lid).link.laDrive = true) ∧
      ((inShock lid .falling).shock.state = .falling ∧ (inShock lid .impact).shock.state = .impact) ∧
      (lid.admits .fall 3 .all = true ∧ (lid.heard 3).shock.state = .calm ∧
        (after (.fall 3 .all 1 40) lid).shock.episode.map (fun e => e.drop.sourceStation) = some (some 3)) ∧
      ((hushed base 3).admits .fall 3 .all = true ∧ ((hushed base 3).heard 3).shock.state = .calm ∧
        (after (.fall 3 .all 1 40) (hushed base 3)).roster.record.version = 8 ∧
        (after (.fall 3 .all 1 40) (hushed base 3)).coord.participants.map Participant.station = [2, 3, 4, 5]) ∧
      ((inShock lid .falling).admits .fall 3 .all = true ∧ ((inShock lid .impact).heard 3).shock.state = .impact) ∧
      (lid.link.laDrive = false ∧ (after (.alertLineChange true) lid).shock.state = .falling ∧
        (driving lid).link.laDrive = true ∧ (after (.alertLineChange true) (driving lid)).shock.state = .calm) ∧
      ((after .ownFall base).coord.state = .opened ∧
        (after .ownFall base).coord.participants.map Participant.station = [2, 3, 4, 5] ∧
        ((after .ownFall (handover .shifting)).roster.slot.map Slot.phase) = some .suspended) := by decide +kernel

theorem meets_FallsInterruptAnEpisode :
    (∀ k ∈ [ShockState.settling, .checking], (inShock lid k).awake = true ∧ (inShock lid k).admits .fall 3 .all = true ∧
        (inShock lid k).pins.laOthers = false ∧ (inShock lid k).link.laDrive = false ∧
        (after .ownFall (busy (inShock lid k))).shock.count = 6 ∧
        (after (.fall 3 .all 1 40) (busy (inShock lid k))).shock.state = .falling ∧
        (after (.alertLineChange true) (busy (inShock lid k))).shock.state = .falling) ∧
      ({ inShock base .settling with coord := { base.coord with state := .opened } }.coordinates = true) := by
  decide +kernel

/-- The DROP records that wait in the write queue: outcome, calm by, and their summary's reason. -/
def dropsOf (s : State) : List (DropOutcome × CalmBy × Option CloseReason) :=
  s.store.queue.filterMap fun q => match q.content with
    | .drop d x => some (d.outcome, d.calmBy, x.map EpisodeSummary.reason)
    | _ => none

theorem meets_AnInterruptionHandsItsRecordOver :
    ((busy (inShock lid .settling)).store.engine = .check ∧ (busy (inShock lid .settling)).store.queue = [] ∧
        (inShock lid .settling).shock.episode ≠ none) ∧
      dropsOf (after .ownFall (busy (inShock lid .settling))) = [(.interrupted, .none, none)] ∧
      dropsOf (after (.fall 3 .all 1 40) (busy (inShock lid .checking))) = [(.interrupted, .none, none)] ∧
      ((episodeAt .settling .opened [2]).coordinates = true ∧ (episodeAt .settling .opened [2]).coord.state ≠ .calm ∧
        dropsOf (after (.alertLineChange true) (episodeAt .settling .opened [2])) =
          [(.interrupted, .none, some .interrupted)]) := by decide +kernel

/-- The handover of station 3 in an episode of stations 3 and 4, with the results they have sent. -/
def judged (k : ShockState) (state : EpisodeState) (results : List (Station × Option CheckResult)) (letGo : Bool)
    (other : EntryState) : State :=
  let s := inShock (handover .suspended) k
  { entries s [entryOf 3 .releasing 0, entryOf 4 .carrying 16, entryOf 5 other 0] with
    roster := { s.roster with
      record := { s.roster.record with entries := [entryOf 3 .releasing 0, entryOf 4 .carrying 16, entryOf 5 other 0] }
      slot := s.roster.slot.map fun sl => { sl with letGoSent := letGo } }
    coord :=
      { state := state, count := 5, closing := if state = .closing then some 0 else none
        participants := results.map fun x =>
          { station := x.1, result := x.2, mark := if x.2 = none then .opened else .settled } } }

/-- A slot's phase, takers and lost takers. -/
def slotOf (s : State) : Option (SlotPhase × List Station × List Station) :=
  s.roster.slot.map fun sl => (sl.phase, sl.takers, sl.lostTakers)

theorem meets_AnInterruptionJudgesTheHandover :
    (∀ r ∈ [some CheckResult.fault, some .ok, none], (judged .settling .opened [(3, some .ok), (4, r)] false .ready).coordinates = true ∧
        (judged .settling .opened [(3, some .ok), (4, r)] false .ready).coord.state ≠ .calm ∧
        (∀ j, (judged .settling .opened [(3, some .ok), (4, r)] false .ready).lags j = false)) ∧
      (coverFor 5 (judged .settling .opened [] false .ready).roster.record 3 = true) ∧
      (slotOf (after .ownFall (judged .settling .opened [(3, some .ok), (4, none)] false .ready)) =
          some (.suspended, [4], []) ∧
        slotOf (after .ownFall (judged .settling .opened [(3, some .ok), (4, some .fault)] false .ready)) =
          some (.suspended, [], [4])) ∧
      (slotOf (after .ownFall (judged .settling .opened [(3, some .fault), (4, none)] true .ready)) = none ∧
        swaps (after .ownFall (judged .settling .opened [(3, some .fault), (4, none)] true .ready)) =
          [(.coverLost, 3, [[4], [], []])] ∧
        (after .ownFall (judged .settling .opened [(3, some .fault), (4, none)] true .ready)).hasCond .swapAbort = true ∧
        sent .ownFall (judged .settling .opened [(3, some .fault), (4, none)] true .ready) =
          [.fall, .releaseNo, .attention, .roster]) := by decide +kernel

/-- A station with its rest run. -/
def rested (s : State) (n : Nat) : State := { s with shock := { s.shock with rest := n } }

/-- A LID in a shock state whose next weightless sample is a fall. -/
def aboutToFall (k : ShockState) (rest : Nat) : State :=
  let s := rested (floating (busy (inShock lid k)) 39) rest
  { s with config := { s.config with freeFallThreshold := 15 } }

theorem meets_ASampleInterruptsAnEpisode :
    (∀ k ∈ [ShockState.settling, .checking], ∀ rest ∈ [0, 499], (aboutToFall k rest).awake = true ∧
        (14 < (aboutToFall k rest).config.freeFallThreshold ∧ 14 < (aboutToFall k rest).config.impactThreshold) ∧
        (aboutToFall k rest).config.fallTime ≤ (aboutToFall k rest).shock.freeFall + 1 ∧
        (aboutToFall k rest).shock.episode ≠ none) ∧
      ((after (.motionSample 14 .x) (aboutToFall .checking 0)).shock.count = 6 ∧
        (after (.motionSample 14 .x) (aboutToFall .settling 0)).shock.state = .falling ∧
        (after (.motionSample 14 .x) (aboutToFall .settling 499)).shock.state = .falling ∧
        (after (.motionSample 14 .x) (aboutToFall .settling 499)).shock.count = 6) := by decide +kernel

/-- A LID in IMPACT with a quiet run, driving the line. -/
def quieted (n : Nat) : State :=
  { inShock (driving lid) .impact with shock := { (inShock lid .impact).shock with quiet := n, fallWindow := some 0 } }

theorem meets_ImpactsAndTheirEnds :
    (∀ k ∈ [ShockState.falling, .settling, .impact, .checking],
        ((inShock lid k).shock.episode ≠ none ∧ (inShock lid k).awake = true)) ∧
      (lid.config.impactThreshold = 96 ∧ (after (.motionSample 96 .y) (inShock lid .falling)).shock.state = .impact ∧
        (after (.motionSample 95 .y) (inShock lid .falling)).shock.state = .falling ∧
        (after (.motionSample 96 .y) (inShock lid .settling)).shock.state = .impact ∧
        sent (.motionSample 96 .y) (inShock lid .settling) = [.impact] ∧
        (after (.motionSample 96 .y) (rested (floating (inShock lid .settling) 7) 9)).shock.freeFall = 0 ∧
        (after (.motionSample 96 .y) (rested (floating (inShock lid .settling) 7) 9)).shock.rest = 0) ∧
      ((quieted 49).shock.quiet = 49 ∧ (after (.motionSample 95 .y) (quieted 48)).shock.state = .impact ∧
        (after (.motionSample 95 .y) (quieted 49)).shock.state = .settling ∧
        (after (.motionSample 95 .y) (quieted 49)).link.laDrive = false) ∧
      ((after (.motionSample 96 .y) (inShock lid .checking)).shock.episode.map fun e => e.drop.impactCount) = some 1 ∧
      (lid.shock.fallWindow = none ∧ (inShock lid .falling).shock.fallWindow ≠ none ∧
        (quieted 0).shock.fallWindow ≠ none ∧ (quieted 0).shock.state ≠ .falling ∧
        ((inShock lid .falling).shock.episode.map Episode.durationFixed) = some false) ∧
      ((after .fallWindowTimer (inShock lid .falling)).shock.episode.map fun e => e.drop.fallDuration) = some 1000 := by
  decide +kernel

/-- An episode whose peak is 0 so far. -/
def unshaken (s : State) : State :=
  { s with shock := { s.shock with
      episode := s.shock.episode.map fun e => { e with drop := { e.drop with peak := 0 } } } }

theorem meets_SamplesInChecking :
    (4 < lid.config.freeFallThreshold ∧ 4 < lid.config.impactThreshold ∧ (38 : Nat) + 1 < lid.config.fallTime) ∧
      ((after (.motionSample 4 .x) (floating (inShock lid .checking) 38)).shock.freeFall = 39 ∧
        (after (.motionSample 4 .x) (floating (inShock lid .checking) 38)).shock.state = .checking ∧
        (after (.motionSample 95 .x) (floating (inShock lid .checking) 38)).shock.freeFall = 0 ∧
        ((after (.motionSample 95 .z) (inShock lid .checking)).shock.episode.map fun e =>
          (e.drop.peak, e.drop.axis, e.drop.impactCount)) = some (100, .x, 0) ∧
        ((after (.motionSample 95 .z) (unshaken (inShock lid .checking))).shock.episode.map fun e =>
          (e.drop.peak, e.drop.axis, e.drop.impactCount)) = some (95, .z, 0)) := by decide +kernel

/-- A LID in SETTLING that a CALM has reached. -/
def calmOwed : State :=
  { inShock (busy lid) .settling with shock := { (inShock lid .settling).shock with calmOwed := true } }

theorem meets_CheckingIsEntered :
    (lid.shock.state ≠ .settling ∧ (inShock lid .settling).shock.state = .settling ∧
        (inShock lid .settling).coordinates = false ∧ (inShock lid .settling).shock.calmOwed = false ∧
        lid.supply.test = none) ∧
      (lid.config.freeFallThreshold ≤ 16 ∧
        (after (.motionSample 12 .x) (rested (inShock lid .settling) 498)).shock.state = .settling ∧
        (after (.motionSample 12 .x) (rested (inShock lid .settling) 498)).shock.rest = 499 ∧
        (after (.motionSample 11 .x) (rested (inShock lid .settling) 498)).shock.rest = 0 ∧
        (after (.motionSample 21 .x) (rested (inShock lid .settling) 498)).shock.rest = 0 ∧
        (after (.motionSample 20 .x) (rested (inShock lid .settling) 499)).shock.state = .checking) ∧
      ((after .enterChecking (inShock lid .settling)).shock.state = .checking ∧
        ((after .enterChecking (inShock lid .settling)).supply.test.map StringTest.trigger) = some .checking) ∧
      ((inShock (bay .ready) .settling).pins.present = true ∧ (inShock (bay .ready) .settling).bay.check = none ∧
        (after .enterChecking (inShock (bay .ready) .settling)).bay.checkForRole = true) ∧
      ((episodeAt .settling .opened [2]).coordinates = true ∧ (episodeAt .settling .opened [2]).coord.answered = false ∧
        (after .enterChecking (episodeAt .settling .opened [2])).coord.state = .closing) ∧
      (calmOwed.coordinates = false ∧ calmOwed.shock.calmOwed = true ∧ calmOwed.lineRests = true ∧
        (after .enterChecking calmOwed).shock.state = .calm) := by decide +kernel

theorem meets_ARoleCheckAtOnce :
    (∀ st ∈ [BayState.faulted, .empty, .lost], (inShock (bay st) .settling).shock.calmOwed = false ∧
        (inShock (bay st) .settling).sys.role = .bay ∧ (inShock (bay st) .settling).pins.present = true) ∧
      settleds (after .enterChecking (inShock (bay .faulted) .settling)) = [(.station 1, .fault, false)] ∧
      (∀ s ∈ [bay .empty, bay .lost, unseated (bay .freed)],
        settleds (after .enterChecking (inShock s .settling)) = [(.station 1, .ok, false)]) ∧
      ((after .enterChecking (inShock (withBay (bay .ready) fun b => { b with check := some 7 }) .settling)).bay.check =
        some 7) ∧
      (∀ s, s = inShock (bay .ready) .settling → ∀ t, t = after .enterChecking
          { s with shock := { s.shock with calmOwed := true } } →
        t.shock.state = .calm ∧ t.bay.checkForRole = true ∧ (t.shock.closed.map Episode.checkPending) = some true) := by
  refine ⟨by decide +kernel, by decide +kernel, by decide +kernel, by decide +kernel, ?_⟩
  rintro s rfl t rfl
  decide +kernel

theorem meets_CheckingClosesAnAnsweredEpisode :
    ((episodeAt .settling .opened [2, 3]).coordinates = true ∧ (episodeAt .settling .opened [2, 3]).coord.state = .opened ∧
        (episodeAt .settling .opened [2, 3]).coord.answered = true ∧ (episodeAt .settling .opened [2, 3]).lineRests = true) ∧
      ((after .enterChecking (episodeAt .settling .opened [2, 3])).coord = {} ∧
        (after .enterChecking (episodeAt .settling .opened [2, 3])).shock.state = .calm ∧
        sent .enterChecking (episodeAt .settling .opened [2, 3]) = [.calm, .attention] ∧
        dropsOf (after .enterChecking (episodeAt .settling .opened [2, 3])) = [(.noImpact, .base, some .allSettled)]) := by
  decide +kernel

/-- A bay in CHECKING that owes a re-ask. -/
def reAsking (s : State) : State :=
  pulled (withBay (inShock (busy s) .checking) fun b => { b with reAsk := true })

theorem meets_ABayReturnsToCalm :
    (∀ st ∈ [BayState.ready, .carrying, .releasing], (reAsking (bay st)).admits .calm 1 .all = true ∧
        (reAsking (bay st)).lineRests = true ∧ (reAsking (bay st)).coordinates = false ∧
        (reAsking (bay st)).running = true ∧ (reAsking (bay st)).bay.ask = .none) ∧
      ((after .checkingTimer (reAsking (bay .ready))).bay.state = .carrying ∧
        sent .checkingTimer (reAsking (bay .ready)) = [.attention, .taken, .releaseAsk] ∧
        (after .checkingTimer (reAsking (bay .ready))).bay.reAsk = false ∧
        (after .checkingTimer (reAsking (bay .ready))).bay.ask = .asked) ∧
      ((after .checkingTimer (reAsking { bay .carrying with image := some { sender := 1, record := nextRoster [] } })).bay.state =
          .ready ∧
        (after .checkingTimer (reAsking { bay .carrying with
          image := some { sender := 1, record := nextRoster [entryOf 3 .releasing 0] } })).bay.ask = .none) ∧
      sent .checkingTimer (busy (inShock (pulled (bay .seated)) .checking)) = [.attention] := by decide +kernel

theorem meets_ALidReturnsToCalm :
    ((inShock (busy lit) .checking).lineRests = true ∧ (inShock (busy lit) .checking).supply.stage = .off ∧
        (∀ z : ZoneId, (inShock (busy lit) .checking).panel.zones[z].target = 0) ∧
        (∀ z : ZoneId, (inShock (busy lit) .checking).pins.headroomLow[z] = false)) ∧
      ((after .checkingTimer (inShock (busy lit) .checking)).supply.stage = .pass ∧
        (after .checkingTimer (inShock (busy (inMode lit .boost)) .checking)).supply.stage = .boost ∧
        (drives (after .checkingTimer (inShock (busy lit) .checking))).map (fun d => d.2.1) =
          [0, 225, 225, 225, 225, 0]) := by decide +kernel

theorem meets_CalmEndsAnEpisode :
    (∀ k ∈ [ShockState.calm, .falling, .impact, .settling, .checking], (inShock lid k).admits .calm 1 .all = true ∧
        ((inShock lid k).heard 1).coordinates = false ∧ ((inShock lid k).heard 1).shock.state = k) ∧
      ((after (.calm 1 .all 5 .allSettled 2 []) (busy (inShock lid .settling))).shock.calmOwed = true ∧
        (after (.calm 1 .all 5 .allSettled 2 []) (busy (inShock lid .checking))).shock.state = .calm ∧
        (after (.calm 1 .all 5 .allSettled 2 []) (busy (alarmed (inShock lid .checking)))).shock.state = .falling) ∧
      ((inShock lid .checking).lineRests = true ∧ (alarmed (inShock lid .checking)).lineRests = false) ∧
      (lid.shock.checking = none ∧ (inShock lid .checking).shock.checking ≠ none ∧
        (after .checkingTimer (busy (inShock lid .checking))).hasCond .episodeEnd = true) ∧
      (((inShock lid .checking).shock.episode.map Episode.checkPending) = some false ∧
        dropsOf (after .checkingTimer (busy (inShock lid .checking))) = [(.noImpact, .timeout, none)] ∧
        dropsOf (after (.calm 1 .all 5 .allSettled 2 []) (busy (inShock lid .checking))) = [(.noImpact, .base, none)]) := by
  decide +kernel

theorem meets_ImpactNotesRaiseAPeak :
    ((episodeAt .impact .opened []).admits .impact 3 .all = true ∧
        ((episodeAt .impact .opened []).heard 3).coordinates = true ∧
        ((episodeAt .impact .opened []).heard 3).coord.state ≠ .calm) ∧
      ((after (.impact 3 .all 5 1 200 .z) (episodeAt .impact .opened [])).coord.participants.map Participant.peak) =
        [0, 200] ∧
      ((episodeAt .impact .opened []).admits .impact 4 .all = true ∧
        ∀ p ∈ (episodeAt .impact .opened []).coord.participants, p.station ≠ 4) ∧
      (lid.admits .impact 3 .all = true ∧ (lid.heard 3).coordinates = false) := by decide +kernel

theorem meets_SettledNotesCloseTheEpisode :
    ((episodeAt .checking .closing [2]).admits .settled 3 .all = true ∧ lid.admits .settled 3 .all = true ∧
        (lid.heard 3).coordinates = false ∧ ((episodeAt .checking .closing [2]).heard 3).coordinates = true ∧
        base.coord.state = .calm ∧ settledNote.late = false ∧ { settledNote with late := true }.late = true) ∧
      ((∃ q ∈ (coordinating .closing [2]).participants, q.station = 3) ∧
        ∀ q ∈ (coordinating .closing [2]).participants, q.station ≠ 4) ∧
      ((coordinating .opened []).state = .opened ∧ ((coordinating .closing []).take 3 settledNote).answered = false ∧
        ((coordinating .closing [2]).take 3 settledNote).answered = true) ∧
      ((episodeAt .checking .closing [2]).coord.closing ≠ none ∧ (episodeAt .checking .closing [2]).lineRests = true ∧
        (episodeAt .checking .closing [2]).running = true ∧ (episodeAt .checking .closing [2]).roster.slot = none ∧
        ∀ j, (episodeAt .checking .closing [2]).lags j = false) ∧
      (after (.settled 3 .all settledNote) (episodeAt .checking .closing [2])).link.queue =
        [{ target := .all, body := .calm 5 .allSettled 2 [] },
         { target := .station 0, body := .attention 0x1000 0 .base }] ∧
      (after .closingTimer (episodeAt .checking .closing [2])).link.queue.head? =
        some { target := .all, body := .calm 5 .timeout 1 [3] } := by decide +kernel

/-- A handover whose LET-GO has been sent, SUSPENDED, at an episode whose parties all settled well. -/
def resumable : State :=
  { inShock (handover .suspended) .checking with
    roster := { (handover .suspended).roster with
      slot := (handover .suspended).roster.slot.map fun sl => { sl with letGoSent := true } }
    coord := coordinating .closing [2, 3] }

theorem meets_TheSuspendedHandoverResumes :
    (resumable.coordinates = true ∧ resumable.coord.state = .closing ∧ resumable.lineRests = true ∧
        ∀ j, resumable.lags j = false) ∧
      ((resumable.roster.slot.map fun sl => (sl.phase, sl.letGoSent)) = some (.suspended, true)) ∧
      (∀ e ∈ resumable.coord.entries, e.1.result = some .ok ∧ e.1.mark = .settled) ∧
      ((after .closingTimer resumable).roster.slot.map Slot.phase) = some .freeing := by decide +kernel

/-- The same handover with its LET-GO still to be sent, and one end of it met, or both. -/
def unsent (confirmed : List Station) : State :=
  { resumable with roster := { resumable.roster with
      slot := resumable.roster.slot.map fun sl => { sl with letGoSent := false, drained := true, confirmed := confirmed } } }

theorem meets_TheUnsentHandoverResumes :
    (∀ l ∈ [[], [(4 : Station)]], (unsent l).coordinates = true ∧ (unsent l).coord.state = .closing ∧
        (unsent l).lineRests = true ∧ (unsent l).running = true ∧ (unsent l).store.queue = [] ∧
        ∀ j, (unsent l).lags j = false) ∧
      ((after .closingTimer (unsent [])).roster.slot.map fun sl => (sl.phase, sl.letGoSent)) = some (.shifting, false) ∧
      ((after .closingTimer (unsent [4])).roster.slot.map fun sl => (sl.phase, sl.letGoSent)) = some (.freeing, true) ∧
      sent .closingTimer (unsent [4]) = [.calm, .attention, .letGo] ∧
      dropsOf (after .closingTimer (unsent [])) = [(.noImpact, .base, some .timeout)] := by decide +kernel

theorem meets_AClosedEpisodeJudgesTheHandover :
    (∀ r ∈ [some CheckResult.fault, some .ok, none], ∀ letGo, (judged .checking .closing [(3, some .ok), (4, r)] letGo .ready).coordinates = true ∧
        (judged .checking .closing [(3, some .ok), (4, r)] letGo .ready).lineRests = true ∧
        (∀ j, (judged .checking .closing [(3, some .ok), (4, r)] letGo .ready).lags j = false)) ∧
      (coverFor 5 (judged .checking .closing [] false .ready).roster.record 3 = true) ∧
      (slotOf (after .closingTimer (judged .checking .closing [(3, some .ok), (4, some .fault)] false .ready)) =
          some (.shifting, [], [4]) ∧
        slotOf (after .closingTimer (judged .checking .closing [(3, some .ok), (4, none)] true .ready)) =
          some (.freeing, [], [4]) ∧
        slotOf (after .closingTimer (judged .checking .closing [(3, some .ok), (4, some .ok)] false .ready)) =
          some (.shifting, [4], [])) ∧
      ((after .closingTimer (judged .checking .closing [(3, none), (4, some .ok)] true .ready)).roster.slot = none ∧
        swaps (after .closingTimer (judged .checking .closing [(3, none), (4, some .ok)] true .ready)) =
          [(.coverLost, 3, [[4], [], []])] ∧
        sent .closingTimer (judged .checking .closing [(3, none), (4, some .ok)] true .ready) =
          [.releaseNo, .attention, .calm, .roster] ∧
        ∀ n ∈ [{ target := .station 3, body := .releaseNo .coverLost },
            ({ target := .all, body := .calm 5 .timeout 1 [3] } : Note)],
          n ∈ (after .closingTimer (judged .checking .closing [(3, none), (4, some .ok)] true .ready)).link.queue) := by decide +kernel

theorem meets_ParkFollowsTheShockState :
    (lid.sys.role = .lid ∧ (bay .ready).sys.role = .bay ∧ strapFault.sys.phase = .strapFault) ∧
      (base.awake = true ∧ base.sys.role = .base ∧ base.shock.state = .calm ∧ base.lineRests = true) ∧
      ((inShock base .falling).park = true ∧ (inShock lid .falling).park = false ∧ base.park = false) ∧
      (after .ownFall base).park = true ∧ (after .closingTimer (episodeAt .checking .closing [2])).park = false := by
  decide +kernel

/-! ### The Record Store and its protection -/

/-- A station whose V flags are all clear, with its store changed. -/
def withStore (s : State) (f : Store → Store) : State := { s with store := f { s.store with vFlags := 0 } }

/-- A DROP record in region 1, its mark absent, and a table that knows it. -/
def recorded : State :=
  let bytes := recordBytes 2 9 1 0 [7]
  { base with
    flash := { cells := (bytes.zipIdx.map fun b => (4096 + b.2, b.1)).filter fun c => c.2 != 255, nFlags := 0 }
    store := { base.store with
      vFlags := 0, openRegion := 2
      regions := base.store.regions.set 1
        { state := .written, fill := 15, first := some 9, last := some 9, good := 1, uncollected := 1 } } }

/-- A part whose store-operation slot is BUSY. -/
def slotBusy (s : State) : State :=
  { s with store := { s.store with slot := some { op := .checkStore, waiting := false } } }

/-- A part whose N flags are locked. -/
def locked (s : State) : State := { s with store := { s.store with lock := true } }

theorem meets_StoreOperationsAreTaken :
    (∀ op ∈ [StoreOp.collect 9, .eraseRegion 2, .protectV 15 true, .protectNv 0, .clearNvAll, .lockNv, .checkStore],
        base.admitsConsole (storeOpKind op) 0 (.station 1) = true ∧ (base.heard 0).store.engine = .idle) ∧
      (storeOpOf (.checkStore 0 .all) = some (.checkStore, 0, .all) ∧ storeOpOf (.protectV 0 .all 3 (.bad 2)) = none) ∧
      ((slotBusy base).store.slot ≠ none ∧ base.store.slot = none ∧ (busy base).store.engine ≠ .idle ∧
        base.store.suspended = none ∧ base.store.queue = []) ∧
      ((base.opRefused (.eraseRegion 0) = some .guarded ∧ base.opRefused (.eraseRegion 1) = some .openRegion ∧
          base.opRefused (.eraseRegion 2) = none ∧ base.opRefused (.eraseRegion 14) = none ∧
          base.opRefused (.eraseRegion 15) = some .guarded ∧ base.opRefused (.eraseRegion 16) = some .badRegion) ∧
        recorded.opRefused (.eraseRegion 1) = some .uncollected ∧
        (locked base).opRefused .clearNvAll = some .locked ∧ base.opRefused (.protectV 16 true) = some .badRegion) ∧
      (base.store.lock = false ∧ base.opRefused (.protectNv 15) = none ∧
        base.opRefused (.protectNv 16) = some .badRegion ∧ (locked base).opRefused (.protectNv 16) = some .locked ∧
        base.console.stream = none ∧ base.opRefused .checkStore = none ∧
        (streaming base (stream 0)).opRefused .checkStore = some .busy) ∧
      (recorded.collectSet 8 = [] ∧ recorded.collectSet 9 = [4096]) ∧
      ((after (.eraseRegion 0 .all 2) base).store.engine = .erase 2 .console ∧
        (after (.eraseRegion 0 .all 2) (busy base)).store.slot = some { op := .eraseRegion 2, waiting := true } ∧
        (after (.eraseRegion 0 .all 1) base).link.queue =
          [{ target := .station 0, body := .storeDone .eraseRegion (.refused .openRegion) .none }]) ∧
      ((after (.protectV 0 .all 15 (.val false)) base).store.vFlags = 1 ∧
        (after (.protectNv 0 .all 3) base).store.engine = .flagProgram 3 ∧
        (after (.clearNvAll 0 .all) base).store.engine = .flagClear ∧
        (after (.lockNv 0 .all) base).store.lock = true ∧ (after (.checkStore 0 .all) base).store.remaining = 15 ∧
        (after (.collect 0 .all 9) recorded).store.engine = .marks [4096] 0) ∧
      (after (.protectV 0 .all 16 (.bad 2)) base).link.queue =
        [{ target := .station 0, body := .storeDone .protectV (.refused .badRegion) .none }] ∧
      (after (.protectV 0 .all 15 (.bad 2)) base).link.queue =
        [{ target := .station 0, body := .storeDone .protectV (.refused .badValue) .none }] := by decide +kernel

/-- A configuration write with a buffer of segments. -/
def writing (segments : List (List Byte)) : State :=
  withStore base fun st => { st with
    slot := some { op := .writeConfig, waiting := false }, writeTimer := some 0
    configWrite := some { phase := .receiving, expected := 68, segments := segments } }

/-- The configuration record in segments of 13 bytes. -/
def segments : List (List Byte) := (List.range 6).map fun i => (configRecord.drop (13 * i)).take 13

theorem meets_TheLastSegmentsOfAConfiguration :
    segments.flatten.length = 68 ∧ segments.map List.length = [13, 13, 13, 13, 13, 3] ∧
      endsWithCheck segments.flatten = true := by
  have e : segments.flatten = configRecord := by decide +kernel
  have d : configRecord.drop 66 = [0x57, 0x63] := by decide +kernel
  have f : configRecord.take 66 = configFields 200 := by decide +kernel
  have l : configRecord.length = 68 := by decide +kernel
  refine ⟨by rw [e, l], by decide +kernel, ?_⟩
  rw [e]
  simp only [endsWithCheck, l, d, f, test_config_check]
  decide

theorem meets_ConfigurationsAreWrittenInSteps :
    (base.admitsConsole .writeConfig 0 .all = true ∧ (base.heard 0).isProtected 0 = true ∧
        (writing []).isProtected 0 = false ∧ (writing []).store.region0Written = false ∧ base.store.slot = none ∧
        (withStore base fun st => { st with region0Written := true }).store.region0Written = true) ∧
      ((after (.writeConfigStart 0 .all 68) (withStore base id)).store.writeTimer = some 2000 ∧
        (after (.writeConfigStart 0 .all 67) (withStore base id)).store.slot = none) ∧
      (formTest (noteBytes .writeConfig 0 .all [3]) = true ∧
        noteHeader (noteBytes .writeConfig 0 .all [3]) = some (.writeConfig, 0, .all) ∧
        (after (.noteGarbled (noteBytes .writeConfig 0 .all [3]) .step) base).link.queue =
          [{ target := .station 0, body := .storeDone .writeConfig (.refused .badValue) .none }] ∧
        (after (.noteGarbled (noteBytes .writeConfig 0 .all [3]) .step) (slotBusy base)).link.queue =
          [{ target := .station 0, body := .storeDone .writeConfig (.refused .busy) .none }]) ∧
      ((base.heard 0).store.configWrite = none ∧
        ((writing []).store.configWrite.map ConfigWrite.phase) = some .receiving) ∧
      (((after (.writeConfigSegment 0 .all 0 (List.replicate 13 7)) (writing [])).store.configWrite.map
          ConfigWrite.segments) = some [List.replicate 13 7] ∧
        (after (.writeConfigSegment 0 .all 0 (List.replicate 14 7)) (writing [])).store.configWrite = none ∧
        (after (.writeConfigSegment 0 .all 0 []) (writing [])).store.configWrite = none ∧
        (after (.writeConfigSegment 0 .all 1 [7]) (writing [])).store.configWrite = none ∧
        ((after (.writeConfigSegment 0 .all 65 (List.replicate 3 7)) (writing (segments.take 5))).store.configWrite.isSome) =
          true ∧
        (after (.writeConfigSegment 0 .all 65 (List.replicate 4 7)) (writing (segments.take 5))).store.configWrite = none) ∧
      ((segments.take 5).flatten.length < 68 ∧
        (after (.writeConfigFinish 0 .all) (writing (segments.take 5))).link.queue =
          [{ target := .station 0, body := .storeDone .writeConfig (.refused .badValue) .none }]) ∧
      ((writing []).running = true ∧ (writing []).store.writeTimer ≠ none ∧
        (after .writeTimer (writing [])).link.queue =
          [{ target := .station 0, body := .storeDone .writeConfig (.refused .timeout) .none }]) := by decide +kernel

/-- The engine at work on a flash with a byte in regions 2 and 3. -/
def working (op : EngineOp) : State :=
  { withStore base fun st => { st with engine := op, slot := some { op := .checkStore, waiting := false } } with
    flash := { cells := [(8192, 0x82), (12288, 0x83)], nFlags := 0x8 } }

theorem meets_EngineWorkReachesTheFlash :
    (∀ op ∈ [EngineOp.program 1 4093 [1, 2, 3] 4294967294 true, .erase 2 .console, .erase 2 .ring, .marks [8192, 12288] 0,
        .marks [8192] 4, .flagProgram 15, .flagClear, .configProgram 0 [[1], [2]] 0, .configProgram 1 [[2]] 1, .check],
        (working op).awake = true ∧ (working op).flash.wf = true ∧ (working op).store.queue = [] ∧
          (working op).store.waitingOp = none ∧ (working op).store.suspended = none) ∧
      ((after .recordProgramDone (working (.program 1 4093 [1, 2, 3] 9 true))).flash.cells =
          [(8189, 1), (8190, 2), (8191, 3), (8192, 0x82), (12288, 0x83)] ∧
        ((after .recordProgramDone (working (.program 1 4093 [1, 2, 3] 9 true))).store.entry 1).uncollected = 1) ∧
      ((after .regionEraseDone (working (.erase 2 .console))).flash.cells = [(12288, 0x83)] ∧
        (after .regionEraseDone (working (.erase 2 .ring))).store.openRegion = 2) ∧
      ((after .collectMarkDone (working (.marks [8192, 12288] 0))).flash.cells = [(8192, 2), (12288, 0x83)] ∧
        (after .collectMarkDone (working (.marks [8192] 4))).link.queue =
          [{ target := .station 0, body := .storeDone .collect .done (.count 5) }]) ∧
      ((after .flagProgramDone (working (.flagProgram 15))).flash.nFlags = 0x8008 ∧
        (after .flagClearDone (working .flagClear)).flash.nFlags = 0) ∧
      ((after .configProgramDone (working (.configProgram 0 [[1], [2]] 0))).store.engine = .configProgram 1 [[2]] 1 ∧
        (after .configProgramDone (working (.configProgram 1 [[2]] 1))).store.slot = none) ∧
      (after .storeCheckDone (working .check)).store.slot = none := by decide +kernel

theorem meets_ACheckOfTheStoreIsAnswered :
    (working .check).running = true ∧ roomOrdinary (working .check).link.queue = true ∧
      (working .check).store.region0Written = false ∧
      (after .storeCheckDone (working .check)).link.queue =
        [{ target := .station 0, body := .storeDone .checkStore .done (.check 0 0 .blank) }] ∧
      (after .storeCheckDone (withStore { working .check with flash := recorded.flash } fun st => { st with
          regions := recorded.store.regions })).link.queue =
        [{ target := .station 0, body := .storeDone .checkStore .done (.check 1 0 .blank) }] := by decide +kernel

theorem meets_HoldProtectsItsRegions :
    ((writing []).pins.hold = true ∧ (writing []).awake = true ∧ (writing []).store.configWrite ≠ none ∧
        (∀ off todo n, (writing []).store.engine ≠ .configProgram off todo n)) ∧
      ((after (.holdChange false) (writing [])).isProtected 0 = true ∧
        (after (.holdChange false) (writing [])).isProtected 15 = true ∧
        (after (.holdChange false) (writing [])).isProtected 1 = false ∧
        (after (.holdChange false) (writing [])).store.configWrite = none) ∧
      ((working (.erase 15 .console)).store.engine = .erase 15 .console ∧
        (working (.erase 0 .console)).store.configWrite = none) ∧
      ((∀ r ∈ [(0 : Region), 15], (working (.erase r .console)).flash.wf = true ∧
          (working (.erase r .console)).pins.hold = true ∧ (working (.erase r .console)).awake = true)) ∧
      (after (.holdChange false) (working (.erase 15 .console))).store.slot = none ∧
      (after (.holdChange false) (working (.erase 15 .console))).link.queue =
        [{ target := .station 0, body := .storeDone .eraseRegion (.refused .guarded) .none }] ∧
      (after (.holdChange false) (working (.erase 2 .console))).store.engine = .erase 2 .console :=
  ⟨⟨by decide +kernel, by decide +kernel, by decide +kernel, by simp [writing, withStore, base, part, State.reset]⟩,
    by decide +kernel⟩

/-- The engine programs a record while the console's erase of a region is suspended. -/
def suspendedErase (r : Region) : State :=
  withStore { programming with flash := (working .check).flash } fun st => { st with
    slot := some { op := .eraseRegion r.val, waiting := false }
    suspended := some { region := r, cause := .console, remaining := 100 } }

/-- The engine programs a segment of a configuration. -/
def configuring (off : Nat) (seg : List Byte) : State :=
  withStore (working (.configProgram off [seg] 0)) fun st => { st with
    slot := some { op := .writeConfig, waiting := false }, region0Written := true
    configWrite := some { phase := .programming, expected := 68, segments := [seg] } }

theorem meets_HoldAbandonsWorkUnderWay :
    (∀ r ∈ [(0 : Region), 15], (suspendedErase r).pins.hold = true ∧ (suspendedErase r).awake = true ∧
        (suspendedErase r).flash.wf = true ∧ (suspendedErase r).store.configWrite = none ∧
        (after (.holdChange false) (suspendedErase r)).store.suspended = none ∧
        (after (.holdChange false) (suspendedErase r)).store.engine = (suspendedErase r).store.engine ∧
        (after (.holdChange false) (suspendedErase r)).link.queue =
          [{ target := .station 0, body := .storeDone .eraseRegion (.refused .guarded) .none }]) ∧
      (∀ x ∈ [(0, List.replicate 13 7), (65, [1, 2, 3])], (configuring x.1 x.2).flash.wf = true ∧
        (configuring x.1 x.2).awake = true ∧ (configuring x.1 x.2).store.configWrite ≠ none ∧ x.2 ≠ [] ∧
        x.1 + x.2.length ≤ 68 ∧ (after (.holdChange false) (configuring x.1 x.2)).store.slot = none) :=
  ⟨by decide +kernel, by decide +kernel⟩

/-- A DROP record that waits. -/
def dropEntry : QueueEntry :=
  { body := [], seconds := 0
    content := .drop
      { count := 1, source := .own, sourceStation := none, fallDuration := 0, impactCount := 0, peak := 0, axis := .x,
        outcome := .noImpact, calmBy := .none, duringHandover := false, checkResult := none } none }

/-- A GUARD record that waits. -/
def guardEntry : QueueEntry :=
  { body := [], seconds := 0
    content := .guard
      { reason := .unknownSender, sender := 6, kind := .gone, target := .all, roleHeld := none, time := 0 } }

theorem test_check_store_waits_for_the_queue :
    (withStore base fun st => { st with queue := [guardEntry] }).opRefused .checkStore = some .busy ∧
      (after (.checkStore 0 .all) (withStore base fun st => { st with queue := [guardEntry] })).link.queue =
        [{ target := .station 0, body := .storeDone .checkStore (.refused .busy) .none }] := by decide +kernel

/-- A write queue of DROP records, then ordinary ones. -/
def recordsOf (drops ordinary : Nat) : List QueueEntry :=
  List.replicate drops dropEntry ++ List.replicate ordinary guardEntry

/-- A busy part with a write queue. -/
def logging (q : List QueueEntry) : State := { busy base with store := { (busy base).store with queue := q } }

theorem meets_RecordsQueueAndTheRingSpares :
    (∀ q ∈ [recordsOf 0 5, recordsOf 0 6, recordsOf 2 6, recordsOf 8 0, recordsOf 3 5],
        (logging q).awake = true ∧ (logging q).store.engine = .check) ∧
      ((recordsOf 0 5).length < 8 ∧ ordinaryRecords (recordsOf 0 5) < 6 ∧ ¬ ordinaryRecords (recordsOf 0 6) < 6 ∧
        ordinaryRecords (recordsOf 3 5) < 6 ∧ ¬ (recordsOf 3 5).length < 8 ∧ (recordsOf 0 7).length < 8 ∧
        (recordsOf 2 6).length = 8 ∧ (recordsOf 8 0).length = 8) ∧
      ((∃ f ∈ recordsOf 2 6, f.isDrop = false) ∧ ∀ f ∈ recordsOf 8 0, f.isDrop = true) ∧
      (inRing recorded.store.openRegion = true ∧ recorded.ringChoice = some 3 ∧
        ({ recorded with store := { recorded.store with openRegion := 14 } }.ringChoice) = some 2) := by decide +kernel

/-- A part whose engine has nothing to do or erases a region, its log open in region 1 at an offset, with region 2 in a
state and the others passed over, or not. -/
def ring (op : EngineOp) (fill : Nat) (two : RegionState) (others : Nat) : State :=
  { base with
    flash := { cells := if two = .written then [(8192, 0)] else [], nFlags := 0 }
    store := { base.store with
      engine := op, remaining := 300
      regions := Vector.ofFn fun r =>
        if r = 1 then { state := .written, fill := fill, first := some 5, last := some 8, good := 4 }
        else if r = 2 then { state := two } else { uncollected := others } } }

/-- What the store does: its engine, its open region, how many records wait, and whether the log is blocked. -/
def doing (s : State) : EngineOp × Region × Nat × Bool := (s.store.engine, s.store.openRegion, s.store.queue.length, s.store.blocked)

theorem meets_AnIdleEnginePlacesTheHead :
    (∀ op ∈ [EngineOp.idle, .erase 5 .console, .erase 5 .ring], ∀ two ∈ [RegionState.blank, .written],
        inRing (ring op 0 two 1).store.openRegion = true ∧ (ring op 0 two 1).awake = true ∧
        (ring op 0 two 1).store.exhausted = false ∧ (ring op 0 two 1).store.blocked = false ∧
        (ring op 0 two 1).store.suspended = none ∧ (ring op 0 two 1).store.waitingOp = none ∧
        (ring op 0 two 1).ringChoice = some 2) ∧
      ((ring .idle 0 .erasing 1).ringChoice = none ∧ (ring .idle 0 .erasing 0).ringChoice = some 3 ∧
        regionErased (ring .idle 0 .blank 1).flash.cells 2 = true ∧
        regionErased (ring .idle 0 .written 1).flash.cells 2 = false) ∧
      (ring .idle 0 .blank 1).store.newest = some 8 := by decide +kernel

/-- A queue entry with a body of some bytes. -/
def bodied (e : QueueEntry) (n : Nat) : QueueEntry := { e with body := List.replicate n 7 }

/-- A part whose write queue holds these entries. -/
def queueing (s : State) (q : List QueueEntry) : State := { s with store := { s.store with queue := q } }

theorem meets_TheHeadIsPlaced :
    (∀ e ∈ [dropEntry, guardEntry],
      ((doing (queueing (ring .idle 4082 .written 1) [e]).engineNext).2 = (1, 0, false) ∧
        (queueing (ring .idle 4082 .written 1) [e]).engineNext.store.engine ≠ .idle) ∧
      (doing (queueing (ring .idle 4083 .written 1) [e]).engineNext = (.erase 2 .ring, 1, 1, false)) ∧
      ((doing (queueing (ring .idle 4083 .blank 1) [e]).engineNext).2 = (2, 0, false)) ∧
      (doing (queueing (ring .idle 4083 .erasing 1) [e]).engineNext = (.idle, 1, 1, true) ∧
        (queueing (ring .idle 4083 .erasing 1) [e]).engineNext.hasCond .logFull = true)) ∧
      (doing (queueing (ring .idle 4056 .written 1) [bodied dropEntry 26]).engineNext).2 = (1, 0, false) ∧
      doing (queueing (ring .idle 4057 .written 1) [bodied dropEntry 26]).engineNext = (.erase 2 .ring, 1, 1, false) ∧
      (∀ e ∈ [dropEntry, guardEntry], let s := queueing (ring .idle 0 .written 1) [e]
        let t : State := { s with store := { s.store with exhausted := true } }
        doing t.engineNext = (.idle, 1, 1, false)) := by decide +kernel

theorem meets_ADropSuspendsAnErase :
    (∀ f ∈ recordsOf 0 6, f.isDrop = false) ∧ (recordsOf 0 6).length < 8 ∧
      (∀ cause ∈ [EraseCause.ring, .console],
        let s := queueing (ring (.erase 5 cause) 0 .written 1) (dropEntry :: recordsOf 0 1)
        s.trySuspend.store.suspended = some { region := 5, cause := cause, remaining := 300 } ∧
          (doing s.trySuspend).2 = (1, 1, false)) ∧
      (doing (queueing (ring (.erase 5 .ring) 4083 .blank 1) [dropEntry]).trySuspend = (.erase 5 .ring, 1, 1, false) ∧
        doing (queueing (ring (.erase 5 .console) 4083 .written 1) [dropEntry]).trySuspend =
          (.erase 5 .console, 1, 1, false) ∧
        (doing (queueing (ring (.erase 5 .console) 4083 .blank 1) [dropEntry]).trySuspend).2 = (2, 0, false)) ∧
      doing (after .recordProgramDone { programming with store := { programming.store with
          queue := [guardEntry], suspended := some { region := 5, cause := .ring, remaining := 77 } } }) =
        (.erase 5 .ring, 1, 1, false) := by decide +kernel

theorem meets_FormedBytesPassTheirTests :
    ((List.replicate 16 (0 : Byte)).length ≤ 16 ∧ payloadOk .roster (rosterPayload widest) = true ∧
        payloadOk .fall (List.replicate 16 0) = true ∧ payloadOk .seg [0, 0] = false) ∧
      formTest (noteBytes .roster 1 .all (rosterPayload widest)) = true ∧
      ((1 ≤ 1 ∧ 6 ≤ 6) ∧ (4294967295 : Nat) < 4294967296 ∧ (List.replicate 26 (255 : Byte)).length ≤ 26) ∧
      recordGood (recordBytes 6 4294967295 65535 4294967295 (List.replicate 26 255)) = true ∧
      recordSequence (recordBytes 6 4294967295 65535 4294967295 (List.replicate 26 255)) = 4294967295 := by decide +kernel

/-! ### The Console Service -/

/-- Why each queued REPLY to an ASK refuses. -/
def refusals (s : State) : List (Option RefusalReason) :=
  s.link.queue.map fun n => match n.body with
    | .ask _ _ _ _ (.refused r) => some r
    | _ => none

theorem meets_BadTopicsAndParts :
    (formTest (noteBytes .ask 0 .all [9, 2, 1]) = true ∧
        noteHeader (noteBytes .ask 0 .all [9, 2, 1]) = some (.ask, 0, .all) ∧
        (after (.noteGarbled (noteBytes .ask 0 .all [9, 2, 1]) (.topic 9 2 1)) base).link.queue =
          [{ target := .station 0, body := .ask (.bad 9) 2 1 0 (.refused .badValue) }]) ∧
      contentBytes 2 (base.contentOf .roster 0) = rosterPayload shared ++ (Config.slotBytes none []).take 11 ∧
      (after (.askIdentity 0 .all 0 0) base).link.queue =
        [{ target := .station 0, body := .ask (.val .identity) 0 0 1 (.done (List.replicate 12 255)) }] :=
  ⟨by decide +kernel, rfl, by decide +kernel⟩

theorem meets_QueriesAreAnswered :
    (base.admitsConsole .ask 0 .all = true ∧ lid.admitsConsole .ask 0 .all = true ∧
        topicOf (.askPeers 0 .all 7 0) = some (.peers, 0, .all, 7, 0)) ∧
      ((lid.heard 0).sys.role ≠ .base ∧ (base.heard 0).sys.role = .base ∧ (lid.heard 0).sys.role = .lid) ∧
      (refusals (after (.askRoster 0 .all 0 0) lid) = [some .notRole] ∧
        refusals (after (.askPeers 0 .all 8 0) lid) = [some .badValue] ∧
        refusals (after (.askZones 0 .all 6 0) lid) = [some .badValue] ∧
        refusals (after (.askZones 0 .all 0 0) base) = [some .notRole]) ∧
      ((base.heard 0).store.bankBusy 1 = false ∧ (working (.erase 8 .console)).store.bankBusy 1 = true ∧
        (working (.erase 7 .console)).store.bankBusy 1 = false ∧
        (after (.askIdentity 0 .all 0 0) (working (.erase 8 .console))).console.asksWaiting = [(0, 0)]) ∧
      (noteOf (.setMask 0 .all 0) = some (.setMask, 0, .all) ∧ consoleKind .setMask = true ∧
        (inListen base).admits .setMask 0 .all = true ∧ (inListen base).sys.phase = .listen ∧
        (after (.setMask 0 .all 0xff) (inListen base)).console.mask = 0) := by decide +kernel

theorem meets_TheAnswersOfQueries (topic : Topic) (role : Role) :
    ¬ (topic = .peers ∧ 8 ≤ 7 ∨ topic = .zones ∧ 6 ≤ 5 ∨ partsOf topic role ≤ 0) := by
  cases topic <;> simp [partsOf, leastParts]

theorem meets_TheWholeRosterIsRead :
    widest.entries.length = 3 ∧ (rosterPayload widest).length = 16 ∧ base.roster.record.entries.length ≤ 3 ∧
      ∀ role, 16 < 12 * partsOf .roster role :=
  ⟨by decide +kernel, by decide +kernel, by decide +kernel, fun role => by simp [partsOf, leastParts]; omega⟩

/-- A part whose owed REPLY was displaced. -/
def replyLost : State := { base with console := { resetOwed := true, resetReplyLost := true } }

theorem meets_TheConsoleCommandsAStation :
    (∀ kind ∈ [Kind.setMask, .attentionResume, .releaseBay, .resetStation],
        (bay .ready).admitsConsole kind 0 .all = true ∧ base.admitsConsole kind 0 .all = true) ∧
      ((captured (noisy base) 3).hasCond .acceptViolation = false ∧
        ((captured base 3).setCond .acceptViolation).hasCond .acceptViolation = true ∧
        (0x10 : Bits16).has Condition.acceptViolation.bit = true ∧ (0x2 : Bits16).has Condition.acceptViolation.bit = false) ∧
      ((after (.attentionResume 0 .all 0x10) ((captured base 3).setCond .acceptViolation)).link.violations = 0 ∧
        (after (.attentionResume 0 .all 0x2) ((captured base 3).setCond .acceptViolation)).link.violations = 3 ∧
        sent (.attentionResume 0 .all 0) (noisy base) = [.reply, .attention] ∧
        sent (.attentionResume 0 .all 2) (noisy base) = [.reply]) ∧
      ((base.heard 0).sys.role ≠ .bay ∧ ((bay .ready).heard 0).bay.ask = .none ∧
        (∀ st ∈ [BayState.seated, .ready, .carrying, .faulted], sent (.releaseBay 0 .all) (bay st) = [.releaseAsk, .reply]) ∧
        (∀ st ∈ [BayState.releasing, .empty, .freed, .lost], sent (.releaseBay 0 .all) (bay st) = [.reply])) ∧
      (((owing base).heard 0).console.resetOwed = true ∧ (inShock base .falling).shock.state ≠ .calm ∧
        roomOrdinary (base.heard 0).link.queue = true ∧ roomOrdinary ((crowded base).heard 0).link.queue = false ∧
        (after (.resetStation 0 .all) base).console.resetOwed = true ∧
        (after (.resetStation 0 .all) base).link.queue = [resetReply] ∧
        (after (.resetStation 0 .all) (crowded base)).sys.phase = .start) ∧
      (replyLost.running = true ∧ replyLost.console.resetOwed = true ∧ replyLost.console.resetReplyLost = true ∧
        roomOrdinary replyLost.link.queue = true ∧ sent .resetReplyRequeue replyLost = [.reply]) := by
  decide +kernel

/-- A stream whose end is owed. -/
def endingStream : Stream := { stream 0 with ending := some .complete, inHand := none }

/-- A part that has not heard the console for long. -/
def consoleSilent (s : State) : State := s.setPeer 0 { s.peer 0 with silent := true }

/-- The kinds queued after a command, and whether attention is inhibited then. -/
def attended (c : Instr) (s : State) : List Kind × Bool := (sent c s, (after c s).console.inhibited)

theorem meets_CommandsMakeTheAttentionTest :
    ((noisy base).admitsConsole .setMask 0 .all = true ∧ ((noisy base).heard 0).console.inhibited = false ∧
        ((noisy base).heard 0).console.stream = none ∧ roomOrdinary ((noisy base).heard 0).link.queue = true) ∧
      (attended (.setMask 0 .all 0) (noisy base) = ([.reply, .attention], true) ∧
        attended (.setMask 0 .all 2) (noisy base) = ([.reply], false) ∧
        attended (.attentionResume 0 .all 2) (noisy base) = ([.reply], false)) ∧
      (after (.attentionResume 0 .all 1) (noisy base)).link.queue =
        [{ target := .station 0, body := .reply .attentionResume .done (.remaining 2) },
          { target := .station 0, body := .attention 2 0 .base }] ∧
      (attended .streamEndQueue (streaming (noisy base) endingStream) = ([.streamEnd, .attention], true) ∧
        attended .streamEndQueue (streaming base endingStream) = ([.streamEnd], false)) := by decide +kernel

theorem meets_EventsMakeTheAttentionTest :
    (attended .beaconTimer (noisy base) = ([.beacon, .attention], true) ∧
        attended .beaconTimer (consoleSilent (noisy base)) = ([.beacon], false)) ∧
      (((consoleSilent (noisy base)).peer 0).silent = true ∧
        attended (.noteNotConsumed .reply 0 .all) (consoleSilent (noisy base)) = ([.attention], true) ∧
        attended (.beacon 0 .all (beaconOf .console)) (consoleSilent (noisy base)) = ([.attention], true) ∧
        attended (.beacon 0 .all (beaconOf .console)) (noisy base) = ([], false)) ∧
      ((inListen (busy (noisy lid))).listening = true ∧ (inListen (busy (noisy lid))).link.queue = [] ∧
        ((inListen (busy (noisy lid))).peer 0).silent = false ∧ (noisy lid).console.mask.has Condition.linkNoise.bit = false ∧
        attended .enterRunning (inListen (busy (noisy lid))) = ([.beacon, .attention], true)) ∧
      ((unheard lid).lowestBase = none ∧ lid.console.mask.has Condition.baseSilent.bit = false ∧
        attended .enterRunning (inListen (busy (unheard lid))) = ([.beacon, .attention], true)) := by decide +kernel

theorem meets_TheLogStreamRuns :
    (base.admitsConsole .readLog 0 .all = true ∧ base.admitsConsole .stopStream 0 .all = true ∧
        (base.heard 0).console.stream = none ∧ (base.heard 0).store.slot = none ∧ (base.heard 0).shock.state = .calm ∧
        (inShock base .falling).shock.state ≠ .calm) ∧
      (sent (.readLog 0 .all 9 (.val .oldest) (.val (.count 0)) (.val true)) base = [.reply] ∧
        ((after (.readLog 0 .all 9 (.val .oldest) (.val (.count 1)) (.val true)) base).console.stream.map
          Stream.ending) = some (some .empty) ∧
        ((after (.readLog 0 .all 9 (.val (.sequence 9)) (.val .toNewest) (.val true)) recorded).console.stream.map
          Stream.next) = some (some { region := 1, offset := 0 }) ∧
        ((after (.readLog 0 .all 9 (.val (.sequence 10)) (.val .toNewest) (.val true)) recorded).console.stream.map
          Stream.next) = some none) ∧
      ((stream 0).tag = 9 ∧ (streaming base (stream 0)).console.stream = some (stream 0) ∧
        ((after (.stopStream 0 .all 9) (streaming base (stream 0))).console.stream.map Stream.ending) = some (some .cut) ∧
        sent (.stopStream 0 .all 8) (streaming base (stream 0)) = [.reply] ∧
        sent (.stopStream 0 .all 9) (streaming base endingStream) = [.reply] ∧
        sent (.stopStream 0 .all 9) (streaming base { endingStream with ending := some .overtaken }) = []) ∧
      ((stream 0).ending = none ∧ (stream 0).again = [] ∧ (stream 0).queued < 2 ∧ (streaming base (stream 0)).running = true ∧
        ((stream 1).inHand.map fun h => decide (14 * (h.index + 1) < h.bytes.length)) = some true ∧
        ((stream 2).inHand.map fun h => decide (h.bytes.length ≤ 14 * (h.index + 1))) = some true) ∧
      (((after .streamAdvance (streaming base (stream 0))).console.stream.map fun x => (x.queued, x.inHand.map InHand.index)) =
          some (1, some 1) ∧
        ((after .streamAdvance (streaming base (stream 2))).console.stream.map fun x => (x.sent, x.lastSequence, x.ending)) =
          some (1, some 5, some .complete) ∧
        sent .streamAdvance (streaming base (stream 2)) = [.seg]) ∧
      (endingStream.ending = some .complete ∧ (streaming base endingStream).console.endsOwed = [] ∧
        roomOrdinary (streaming base endingStream).link.queue = true ∧
        roomOrdinary (streaming (crowded base) endingStream).link.queue = false ∧
        (after .streamEndQueue (streaming base endingStream)).console.stream = none ∧
        sent .streamEndQueue (streaming base endingStream) = [.streamEnd] ∧
        sent .streamEndQueue (streaming base (stream 0)) = []) := by decide +kernel

/-- A log of two records in region 1 and one in region 2, whose first sequence is lower. -/
def logged : State :=
  { base with
    flash :=
      { nFlags := 0
        cells := written 0 (recordBytes 2 9 1 0 []) ++ written 14 (recordBytes 2 10 1 0 [7]) ++
          written 4096 (recordBytes 2 5 1 0 []) }
    store := { base.store with
      vFlags := 0
      openRegion := 1
      regions := (base.store.regions.set 1
        { state := .written, fill := 29, first := some 9, last := some 10, good := 2, uncollected := 2 }).set 2
        { state := .written, fill := 14, first := some 5, last := some 5, good := 1, uncollected := 1 } } }

/-- A stream at a position of that log, without a record in hand. -/
def reading (next : Option Position) (limit : StreamLimit) : Stream :=
  { stream 0 with next := next, limit := limit, inHand := none }

/-- The part with its engine erasing a region. -/
def erasing (s : State) (r : Region) : State :=
  { s with store := { s.store with engine := .erase r .ring, remaining := 9 } }

theorem meets_TheLogIsReadInOrder :
    (logged.logRecords.map Prod.fst = [{ region := 2, offset := 0 }, { region := 1, offset := 0 },
        { region := 1, offset := 14 }]) ∧
      (logged.startPosition .oldest = some { region := 2, offset := 0 } ∧
        logged.startPosition (.sequence 6) = some { region := 1, offset := 0 } ∧
        logged.startPosition (.sequence 11) = none) ∧
      (logged.streamNext (reading (some { region := 2, offset := 0 }) (.toNewest 10)) =
          some { region := 2, offset := 0 } ∧
        (((after .streamAdvance (streaming logged (reading (some { region := 2, offset := 0 }) (.toNewest 10)))).console.stream.map
          fun x => (x.next, x.sent, x.ending)) = some (some { region := 1, offset := 0 }, 1, none))) ∧
      (after .streamAdvance (streaming (erasing logged 3) (reading (some { region := 2, offset := 0 }) (.toNewest 10))) =
          streaming (erasing logged 3) (reading (some { region := 2, offset := 0 }) (.toNewest 10)) ∧
        sent .streamAdvance (streaming (erasing logged 8) (reading (some { region := 2, offset := 0 }) (.toNewest 10))) =
          [.seg]) := by decide +kernel

theorem meets_AnEraseOvertakesTheStream :
    ((((streaming logged (reading (some { region := 2, offset := 0 }) (.toNewest 10))).startErase 1 .ring).console.stream.map
          Stream.ending) = some (some .overtaken) ∧
        (((streaming logged (reading (some { region := 2, offset := 0 }) (.count 1))).startErase 1 .ring).console.stream.map
          Stream.ending) = some none ∧
        (((streaming logged (reading (some { region := 1, offset := 0 }) (.toNewest 10))).startErase 2 .ring).console.stream.map
          Stream.ending) = some none) := by decide +kernel

theorem meets_DisplacedNotesAreHandedAgain :
    (∀ b ∈ [NoteBody.seg segNote, .streamEnd { tag := 9, outcome := .cut, sent := 0, bad := 0, lastSequence := none }],
        ∀ s : State, s = queued (streaming base { stream 0 with queued := 1 })
          (urgentNote :: List.replicate 4 ordinaryNote ++ [{ target := .station 0, body := b }]) →
        s.link.queue.length = 6 ∧ s.takesKind urgentNote.kind = true ∧ urgentNote.urgent = true) ∧
      (((queued (streaming base { stream 0 with queued := 1 })
          (urgentNote :: List.replicate 4 ordinaryNote ++ [{ target := .station 0, body := .seg segNote }])).send
            urgentNote).console.stream.map fun x => (x.queued, x.again)) = some (0, [segNote]) ∧
      (after .streamAdvance (streaming base { stream 0 with again := [segNote] })).link.queue =
        [{ target := .station 0, body := .seg segNote }] ∧
      (after .streamEndQueue { base with console := { base.console with
          endsOwed := [{ tag := 9, outcome := .cut, sent := 0, bad := 0, lastSequence := none }] } }).console.endsOwed = [] ∧
      sent .streamEndQueue { base with console := { base.console with
          endsOwed := [{ tag := 9, outcome := .cut, sent := 0, bad := 0, lastSequence := none }] } } = [.streamEnd] := by
  refine ⟨?_, by decide +kernel⟩
  intro b hb s hs
  subst hs
  revert b
  decide +kernel

/-- A BASE from its reset into RUNNING: the two events of the start. -/
theorem test_a_start :
    (after .enterRunning (busy (after .enterListen State.reset))).running = true ∧
      (after .enterRunning (busy (after .enterListen State.reset))).hasCond .configDefaulted = true := by decide +kernel

end Sys2Proof.Tests
end

section
/-! Eligibility, cover and the recomputation (R8): what each says, once. -/

namespace Sys2Proof.Machine

theorem eligible_iff (reserve : Nat) (e : Entry) : eligible reserve e = true ↔
    (e.state = .ready ∨ e.state = .carrying) ∧ reserve ≤ e.charge ∧ e.temperature ≠ .hot ∧
      (e.silent = false ∨ e.state = .carrying) := by
  simp [eligible, and_assoc]

theorem coverFor_iff (reserve : Nat) (r : Roster) (k : Station) : coverFor reserve r k = true ↔
    r.adapter = true ∨ ∃ e ∈ r.entries, e.station ≠ k ∧ eligible reserve e = true := by
  simp [coverFor]

/-- A recomputation writes the record and lets the takers of the slot follow it; the rest of the Roster Unit stands,
also where it sets LOW_RESERVE. -/
theorem recompute_roster (s : State) : s.recompute.roster =
    { s.roster with
      record := recomputed s.config.reserve s.roster.held
      slot := s.roster.slot.map fun sl =>
        sl.follow s.roster.held (recomputed s.config.reserve s.roster.held) } := by
  unfold State.recompute
  dsimp only
  split
  case isTrue => exact setCond_roster _ .lowReserve
  case isFalse => rfl

theorem recompute_record (s : State) :
    s.recompute.roster.record = recomputed s.config.reserve s.roster.held := by
  rw [recompute_roster]

/-- Settles O22: the two tests say what R8 says, the default reserve is that of the default configuration, and an
allocation takes nothing but the record and the reserve as they stand. -/
theorem eligibilityAndCover : Obligations.EligibilityAndCover :=
  ⟨eligible_iff, coverFor_iff, rfl, recompute_record⟩

end Sys2Proof.Machine
end

section
/-! DRAINED at the handover slot (R31): the sender's silence, a recomputation that no taker leaves by, the mark on the
slot, and the version, ROSTER and test of R32 that end the event. -/

namespace Sys2Proof.Machine

variable {k : Station} {s : State} {r : Roster} {sl : Slot}

/-! ### The sender's entry of the peer table -/

theorem relight_alone (s : State) (k : Station) :
    Effect { queue := true, console := true, panel := true, supply := true } s (s.relight k) := by
  unfold State.relight
  split
  · exact ite_effect (panelEvent_effect (Effect.refl _ s) rfl rfl rfl rfl rfl) (Effect.refl _ s)
  · exact Effect.refl _ s

@[simp] theorem relight_peers (s : State) (k : Station) : (s.relight k).link.peers = s.link.peers :=
  rest_peers ((relight_alone s k).link rfl)

theorem setPeer_peer_same (s : State) (k : Station) (p : Peer) : (s.setPeer k p).peer k = p := by
  simp [State.peer]

/-- Hearing a note ends its sender's silence, the console's too (R180). -/
theorem heard_silent (s : State) (k : Station) : ((s.heard k).peer k).silent = false := by
  unfold State.heard
  dsimp only
  split
  case isTrue =>
    rw [State.peer, attentionTest_peers, relight_peers, ← State.peer, setPeer_peer_same]
  case isFalse => rw [setPeer_peer_same]

/-! ### The slot's leaving station -/

theorem leavingSlot_eq_some {u : RosterUnit} (hs : u.slot = some sl) (hl : sl.leaving = k) :
    u.leavingSlot k = some sl := by
  simp [RosterUnit.leavingSlot, hs, hl]

theorem leavingSlot_eq_none {u : RosterUnit} (h : u.slot.map Slot.leaving ≠ some k) : u.leavingSlot k = none := by
  unfold RosterUnit.leavingSlot
  split
  case h_1 sl hs => exact if_neg fun hl => h (by rw [hs, Option.map_some, hl])
  case h_2 => rfl

theorem markDrained_leaving (hs : s.roster.slot = some sl) (hl : sl.leaving = k) :
    s.markDrained k = { s with roster := { s.roster with slot := some { sl with drained := true } } } := by
  simp only [State.markDrained, leavingSlot_eq_some hs hl]
  rfl

theorem markDrained_other (h : s.roster.slot.map Slot.leaving ≠ some k) : s.markDrained k = s := by
  simp only [State.markDrained, leavingSlot_eq_none h]

/-- DRAINED leaves the record as it is: it is no roster change trigger. -/
theorem markDrained_record (s : State) (k : Station) : (s.markDrained k).roster.record = s.roster.record := by
  unfold State.markDrained
  split <;> rfl

/-! ### A change of silence that no taker leaves by (R6, R7, R37) -/

/-- Every taker of the slot stands CARRYING in the record. -/
def State.takersCarry (s : State) : Prop :=
  ∀ sl, s.roster.slot = some sl → ∀ j ∈ sl.takers, stateIs s.roster.record j .carrying = true

theorem takersCarry_idle (h : s.roster.slot = none) : s.takersCarry := fun sl hs => by simp [h] at hs

theorem takersCarry_busy (hs : s.roster.slot = some sl)
    (h : ∀ j ∈ sl.takers, stateIs s.roster.record j .carrying = true) : s.takersCarry := by
  intro x hx
  rw [hs] at hx
  cases hx
  exact h

theorem stateIs_mapEntry {f : Entry → Entry} (hk : ∀ e, (f e).station = e.station)
    (hs : ∀ e, (f e).state = e.state) (j : Station) (st : EntryState) :
    stateIs (mapEntry r k f) j st = stateIs r j st := by
  simp only [stateIs, mapEntry, List.any_map]
  congr 1
  funext e
  simp only [Function.comp]
  split
  case isTrue => rw [hk, hs]
  case isFalse => rfl

theorem sync_stateIs (s : State) (k j : Station) (st : EntryState) :
    stateIs (s.sync k).roster.record j st = stateIs s.roster.record j st :=
  stateIs_mapEntry (f := fun e => { e with silent := (s.peer k).silent }) (fun _ => rfl) (fun _ => rfl) j st

theorem sync_takersCarry (h : s.takersCarry) : (s.sync k).takersCarry := fun sl hs j hj =>
  (sync_stateIs s k j .carrying).trans (h sl hs j hj)

theorem dropTakers_nil (sl : Slot) (lost : Bool) : sl.dropTakers [] lost = sl := by
  have stays (l : List Station) : (l.filter fun k => !([] : List Station).contains k) = l :=
    List.filter_eq_self.mpr fun _ _ => rfl
  simp only [Slot.dropTakers, stays, List.filter_nil, List.append_nil, ite_self]

/-- A trigger by which no taker leaves is a recomputation. -/
theorem trigger_takersCarry (h : s.takersCarry) : s.trigger r = s.recompute := by
  unfold State.trigger
  split
  case h_1 => rfl
  case h_2 sl hs =>
    have none_leaves : (sl.takers.filter fun j =>
        !stateIs s.roster.record j .carrying || ([] : List Station).contains j) = [] :=
      List.filter_eq_nil_iff.mpr fun j hj => by simp [h sl hs j hj]
    have same : (s.withUnit fun u => { u with slot := some sl }) = s := by
      rw [← hs]
      rfl
    rw [none_leaves]
    simp [State.loseTakers, dropTakers_nil, same]

theorem takeSilence_takersCarry (h : s.takersCarry) (hn : (s.peer k).silent = false) (hl : s.lags k = true) :
    s.takeSilence r k = (s.sync k).recompute := by
  rw [State.takeSilence, if_pos hl]
  have none_departs : s.departing k = [] := by simp [State.departing, hn]
  rw [none_departs]
  exact trigger_takersCarry (sync_takersCarry h)

theorem recompute_leaving (s : State) :
    s.recompute.roster.slot.map Slot.leaving = s.roster.slot.map Slot.leaving := by
  rw [recompute_roster, Option.map_map]
  rfl

/-- The end of a silence keeps the handover in progress. -/
theorem takeSilence_leaving (h : s.takersCarry) (hn : (s.peer k).silent = false) (hl : s.lags k = true) :
    (s.takeSilence r k).roster.slot.map Slot.leaving = s.roster.slot.map Slot.leaving := by
  rw [takeSilence_takersCarry h hn hl]
  exact recompute_leaving (s.sync k)

/-! ### The end of an event of the Roster Unit -/

theorem letGoTest_idle (h : s.roster.slot = none) : s.letGoTest = s := by
  simp only [State.letGoTest, h]

/-- The test of R32 leaves the leaving station and the drained mark of the slot. -/
theorem letGoTest_slot (hs : s.roster.slot = some sl) :
    ∃ x, s.letGoTest.roster.slot = some x ∧ x.leaving = sl.leaving ∧ x.drained = sl.drained := by
  simp only [State.letGoTest, hs]
  split
  case isTrue => exact ⟨_, rfl, rfl, rfl⟩
  case isFalse => exact ⟨sl, hs, rfl, rfl⟩

@[simp] theorem publish_slot (s : State) : s.publish.roster.slot = s.roster.slot := by
  simp [State.publish]

variable {w : Roster → State → State}

/-- What an event leaves the slot to be, up to the test of R32, its work leaves it to be. -/
theorem rosterEvent_slot (hs : (w s.roster.record s).roster.slot = some sl) :
    ∃ x, (s.rosterEvent w).roster.slot = some x ∧ x.leaving = sl.leaving ∧ x.drained = sl.drained := by
  unfold State.rosterEvent
  apply letGoTest_slot
  split
  case isTrue => rw [publish_slot, hs]
  case isFalse => exact hs

/-- An event whose work leaves the record is its work and the test of R32: nothing is published. -/
theorem rosterEvent_unpublished (h : (w s.roster.record s).roster.record = s.roster.record) :
    s.rosterEvent w = (w s.roster.record s).letGoTest := by
  simp [State.rosterEvent, h]

theorem rosterEvent_congr {v : Roster → State → State} (h : w s.roster.record s = v s.roster.record s) :
    s.rosterEvent w = s.rosterEvent v := by
  simp only [State.rosterEvent, h]

/-! ### DRAINED (R31) -/

section Active
variable (ha : s.rosterActive = true)
include ha

/-- Where the record shows the sender's silence, DRAINED is the mark and the test of R32. -/
theorem rosterDrained_shown (h : s.lags k = false) : s.rosterDrained k = (s.markDrained k).letGoTest := by
  rw [State.rosterDrained, if_pos ha, quietEvent_shown h]
  exact rosterEvent_unpublished (markDrained_record s k)

/-- Of another station than the leaving one, the end of its silence is all that DRAINED brings. -/
theorem rosterDrained_other (h : s.takersCarry) (hn : (s.peer k).silent = false) (hl : s.lags k = true)
    (ho : s.roster.slot.map Slot.leaving ≠ some k) : s.rosterDrained k = s.rosterSilence k := by
  rw [State.rosterDrained, if_pos ha, State.rosterSilence, if_pos hl]
  refine rosterEvent_congr (markDrained_other ?_)
  rwa [takeSilence_leaving h hn hl]

/-- With the slot IDLE the end of its sender's silence is all that DRAINED brings. -/
theorem rosterDrained_idle (hn : (s.peer k).silent = false) (hs : s.roster.slot = none) :
    s.rosterDrained k = s.rosterSilence k := by
  have other : s.roster.slot.map Slot.leaving ≠ some k := by simp [hs]
  cases hl : s.lags k with
  | false => rw [rosterDrained_shown ha hl, markDrained_other other, letGoTest_idle hs, rosterSilence_shown hl]
  | true => exact rosterDrained_other ha (takersCarry_idle hs) hn hl other

/-- The mark of the leaving station stands also where the event takes the end of its silence first. -/
theorem rosterDrained_marks (h : s.takersCarry) (hn : (s.peer k).silent = false) (hl : s.lags k = true)
    (hk : s.roster.slot.map Slot.leaving = some k) :
    ∃ x, (s.rosterDrained k).roster.slot = some x ∧ x.leaving = k ∧ x.drained = true := by
  obtain ⟨y, hy, hyk⟩ := Option.map_eq_some_iff.mp
    ((takeSilence_leaving (r := s.roster.record) h hn hl).trans hk)
  rw [State.rosterDrained, if_pos ha, State.quietEvent]
  obtain ⟨x, hx, hxl, hxd⟩ := rosterEvent_slot (s := s) (sl := { y with drained := true })
    (w := fun before t => (t.takeSilence before k).markDrained k) (by simp only [markDrained_leaving hy hyk])
  exact ⟨x, hx, hxl.trans hyk, hxd⟩

end Active

theorem exec_drained (k : Station) (tgt : Target) (current : Nat) (s : State) :
    exec (.drained k tgt current) s = .next (s.receive .drained k tgt fun t => t.rosterDrained k) := rfl

/-- DRAINED, admitted, at an active Roster Unit is its event there, which leaves nothing to attend to. -/
theorem exec_drained_active {tgt : Target} (current : Nat) (h : s.admits .drained k tgt = true)
    (ha : (s.heard k).rosterActive = true) :
    exec (.drained k tgt current) s = .next ((s.heard k).rosterDrained k) := by
  have taken := rosterDrained_effect (k := k)
    (p := { roster := true, store := true, queue := true, console := true, shock := true })
    (Effect.refl _ (s.heard k)) rfl rfl rfl rfl rfl
  rw [exec_drained, receive_admitted h, attend_taken ha taken rfl (rosterDrained_shows ha)]

/-- Where the Roster Unit is not active, DRAINED is heard and nothing more. -/
theorem exec_drained_inactive {tgt : Target} (current : Nat) (h : s.admits .drained k tgt = true)
    (ha : (s.heard k).rosterActive = false) : exec (.drained k tgt current) s = .next (s.hears k) := by
  simp [exec_drained, receive_admitted h, State.rosterDrained, ha, State.hears]

/-- Settles O26, by the lags of the record and by whether the slot's leaving station is the sender. -/
theorem drainedMarksTheSlot : Obligations.DrainedMarksTheSlot := by
  rintro s k tgt current admitted h rfl
  have awake := heard_silent s k
  refine ⟨fun ha sl hs => ?_, fun ha hs => ?_, exec_drained_inactive current admitted, rosterSilence_shown⟩
  · have leaving : (s.heard k).roster.slot.map Slot.leaving = some sl.leaving := by rw [hs, Option.map_some]
    rw [exec_drained_active current admitted ha]
    refine ⟨fun hk hl => ?_, fun hk hl hc => ?_, fun hk hl => ?_, fun hk hl hc => ?_⟩
    · rw [rosterDrained_shown ha hl, markDrained_leaving hs hk]
    · obtain ⟨x, marked⟩ := rosterDrained_marks ha (takersCarry_busy hs hc) awake hl (hk ▸ leaving)
      exact ⟨_, x, rfl, marked⟩
    · rw [rosterDrained_shown ha hl, markDrained_other (by simpa [leaving] using hk)]
    · rw [rosterDrained_other ha (takersCarry_busy hs hc) awake hl (by simpa [leaving] using hk)]
  · rw [exec_drained_active current admitted ha, rosterDrained_idle ha awake hs]

end Sys2Proof.Machine
end

section
/-! The demand of a zone (R71): when the shock fader is 0, what each of its steps gives, and the bound that the two
scalings by at most 255 parts in 255 leave. -/

namespace Sys2Proof.Machine

/-- The shock fader is 0 at a LID outside CALM and nowhere else (R70, R84). -/
theorem shockFader_eq_zero_iff (s : State) : s.shockFader = 0 ↔ s.sys.role = .lid ∧ s.shock.state ≠ .calm := by
  simp [State.shockFader, State.shockHold]

theorem shaped_eq_ite (c : Curve) (p : Nat) : shaped c p = if c = .square then p * p / 255 else p := by
  cases c <;> rfl

/-- A share of at most 255 parts in 255 is no more than the whole. -/
theorem scaled_le {n k : Nat} (h : k ≤ 255) : n * k / 255 ≤ n :=
  Nat.div_le_of_le_mul (by rw [Nat.mul_comm 255]; exact Nat.mul_le_mul_left n h)

/-- Either curve keeps a level within the range of a fader. -/
theorem shaped_le (c : Curve) {p : Nat} (h : p ≤ 255) : shaped c p ≤ 255 := by
  cases c with
  | linear => exact h
  | square => exact Nat.le_trans (scaled_le h) h

/-- With its faders in range a zone's demand never exceeds its base current (R71). -/
theorem demandOf_le_base {p : Panel} {z : Zone} (f : Nat) (hg : p.groupLevel z.config.group ≤ 255)
    (ha : p.ambient ≤ 255) : demandOf p f z ≤ z.config.base := by
  have level : levelOf (p.groupLevel z.config.group) p.ambient ≤ 255 := Nat.le_trans (scaled_le ha) hg
  unfold demandOf
  split
  case isTrue => exact Nat.zero_le _
  case isFalse => exact scaled_le (shaped_le _ level)

theorem retarget_demand (s : State) (z : ZoneId) :
    s.retarget.panel.zones[z].demand = demandOf s.panel s.shockFader s.panel.zones[z] := by
  rw [retarget_zone]

/-- Settles O37: the recomputation gives each zone `demandOf`, whose steps are those of R71, and the bound is that of
the base current. -/
theorem demandsFollowTheirSteps : Obligations.DemandsFollowTheirSteps := by
  rintro s z zone hz g p q d hg hp hq hd
  have level : g = s.panel.groupLevel zone.config.group := by
    rw [hg]
    cases zone.config.group <;> rfl
  have demand : d = demandOf s.panel s.shockFader zone := by
    rw [hd, hq, hp, level, ← shaped_eq_ite]
    simp only [demandOf, shockFader_eq_zero_iff, levelOf]
  refine ⟨by rw [retarget_demand, demand, hz], fun hg255 ha hb => ?_⟩
  have bound : d ≤ zone.config.base := demand ▸ demandOf_le_base _ (level ▸ hg255) ha
  exact ⟨Nat.le_trans bound hb, bound⟩

end Sys2Proof.Machine
end

section
/-! The PARK line (R116): it follows the shock state of a BASE that is awake. The three resets leave the part asleep, an
own fall leaves CALM, and the close of the coordinator's episode enters CALM, which neither the service of the wait list
nor a line at rest makes it leave in the same event. -/

namespace Sys2Proof.Machine

variable {s t : State}

/-! ### The line -/

theorem plays_eq_true_iff {r : Role} : s.plays r = true ↔ s.awake = true ∧ s.sys.role = r := by
  simp [State.plays]

theorem shockHold_eq_true_iff : s.shockHold = true ↔ s.shock.state ≠ .calm := by simp [State.shockHold]

/-- PARK is asserted exactly by an awake BASE outside CALM (R116). -/
theorem park_eq_true_iff :
    s.park = true ↔ s.awake = true ∧ s.sys.role = .base ∧ s.shock.state ≠ .calm := by
  rw [State.park, Bool.and_eq_true, plays_eq_true_iff, shockHold_eq_true_iff, and_assoc]

theorem park_of_asleep (h : s.awake = false) : s.park = false := by simp [State.park, State.plays, h]

theorem park_of_role_ne_base (h : s.sys.role ≠ .base) : s.park = false := by simp [State.park, State.plays, h]

theorem park_of_calm (h : s.shock.state = .calm) : s.park = false := by simp [State.park, State.shockHold, h]

/-! ### The resets leave the part asleep (R201) -/

theorem restart_asleep (s : State) (cause : ResetCause) (path : Bool) : (s.restart cause path).awake = false :=
  asleep (readStraps_phase _ cause)

theorem exec_powerOnReset (role : Fin 4) (addr : Station) (s : State) :
    exec (.powerOnReset role addr) s = execPowerOnReset role addr s := rfl

theorem exec_pinReset (s : State) : exec .pinReset s = execPinReset s := rfl

theorem powerOnReset_asleep {role : Fin 4} {addr : Station} (h : exec (.powerOnReset role addr) s = .next t) :
    t.awake = false := by
  rw [exec_powerOnReset] at h
  cases h
  exact restart_asleep _ .powerOn false

/-- Without the always-on supply no reset begins, and the part stays stopped. -/
theorem pinReset_asleep (h : exec .pinReset s = .next t) : t.awake = false := by
  rw [exec_pinReset] at h
  cases h
  split
  case isTrue => exact restart_asleep _ .pin _
  case isFalse unpowered => simp [State.awake, State.active, unpowered]

/-! ### An own fall in CALM (R103) -/

theorem awake_congr (hs : t.sys = s.sys) (hp : t.pins = s.pins) : t.awake = s.awake := by
  simp only [State.awake, State.active, hs, hp]

theorem exec_ownFall_calm (ha : s.awake = true) (hc : s.shock.state = .calm) :
    exec .ownFall s = .next s.ownFall := by
  have taken : exec .ownFall s = .next (if s.awake then s.runFalls else s) := rfl
  simp only [taken, ha, State.runFalls, hc, if_true]

/-- A station that a fall has met in CALM asserts PARK where it is an awake BASE. -/
theorem LeavesCalm.park {source : Source} {station : Option Station} (l : LeavesCalm s t source station)
    (ha : s.awake = true) (hr : s.sys.role = .base) : t.park = true := by
  have sys : t.sys = s.sys := by rw [l.kept]
  have pins : t.pins = s.pins := by rw [l.kept]
  exact park_eq_true_iff.mpr ⟨(awake_congr sys pins).trans ha, sys ▸ hr, by simp [l.state]⟩

/-! ### What the Roster Unit leaves of the shock state: a handover only marks the record in progress (R118) -/

@[simp] theorem recompute_shock (s : State) : s.recompute.shock = s.shock :=
  (recompute_effect (p := { roster := true, queue := true, console := true }) (Effect.refl _ s) rfl rfl rfl).shock rfl

theorem startHandover_shockState (s : State) (k : Station) (origin : Origin) :
    (s.startHandover k origin).shock.state = s.shock.state := by
  simp [State.startHandover, State.markHandover]

theorem tryStart_shockState (s : State) (k : Station) (origin : Origin) :
    (s.tryStart k origin).shock.state = s.shock.state := by
  unfold State.tryStart
  split
  case isTrue => exact startHandover_shockState s k origin
  case isFalse => rw [sendTo_shock]

theorem serveOne_shockState (s : State) (before : Roster) (w : Waiter) :
    (s.serveOne before w).shock.state = s.shock.state := by
  unfold State.serveOne
  split
  case h_1 => rw [sendTo_shock]
  case h_2 e _ =>
    cases e.state with
    | freed | lost => simp only [sendTo_shock]
    | seated | ready | faulted => simp only [State.releaseWithout, hand_shock, sendTo_shock]
    | carrying => exact tryStart_shockState s w.station w.origin
    | releasing => rfl

theorem serveFrom_shockState (before : Roster) (n : Nat) (s : State) :
    (State.serveFrom before n s).shock.state = s.shock.state := by
  induction n generalizing s with
  | zero => rfl
  | succ n ih =>
    unfold State.serveFrom
    split
    case isTrue => rfl
    case isFalse =>
      split
      case h_1 => rfl
      case h_2 w rest _ => rw [ih, serveOne_shockState, withUnit_shock]

theorem resumeSlot_shockState (s : State) (before : Roster) :
    (s.resumeSlot before).shock.state = s.shock.state := by
  unfold State.resumeSlot
  split
  case h_1 => split <;> rfl
  case h_2 => exact serveFrom_shockState before _ s

/-- An event of the Roster Unit leaves the Shock Monitor as its work does: the version, the ROSTER and the test of R32
that follow are not its concern. -/
theorem rosterEvent_shock (s : State) (w : Roster → State → State) :
    (s.rosterEvent w).shock = (w s.roster.record s).shock := by
  have ends : Effect { roster := true, queue := true, console := true } (w s.roster.record s) (s.rosterEvent w) :=
    rosterEvent_effect (Effect.refl _ _) rfl rfl rfl
  exact ends.shock rfl

/-! ### The close of the coordinator's episode (R127) -/

/-- What the event of a close changes: it moves no line and drives none. -/
abbrev Parts.closing : Parts :=
  { queue := true, console := true, store := true, roster := true, shock := true, coord := true }

theorem closeWork_alone (reason : CloseReason) (news : Option Station) (before : Roster) (s : State) :
    Effect Parts.closing s (State.closeWork reason news before s) := by
  unfold State.closeWork
  have told {u : State} (h : Effect Parts.closing s u) : Effect Parts.closing s (u.sendCalm reason) := by
    unfold State.sendCalm
    exact ite_effect (sendAll_effect h rfl rfl) h
  have judged {u : State} (h : Effect Parts.closing s u) (failed : Station → Bool) :
      Effect Parts.closing s (u.judgeAt before failed news) := judgeAt_effect h rfl rfl rfl rfl rfl
  have calm {u : State} (h : Effect Parts.closing s u) : Effect Parts.closing s (u.withShock Shock.calm) :=
    withShock_effect h rfl fun _ => ⟨fun _ => rfl, fun _ => rfl⟩
  exact resumeSlot_effect (setCond_effect (calm (withCoord_effect (told (judged (withCoord_effect
    (Effect.refl _ s) rfl) _)) rfl)) rfl rfl) rfl rfl rfl rfl rfl

theorem closeWork_shockState (reason : CloseReason) (news : Option Station) (before : Roster) (s : State) :
    (State.closeWork reason news before s).shock.state = .calm := by
  unfold State.closeWork
  rw [resumeSlot_shockState, setCond_shock, withShock_shock]
  rfl

/-- A line at rest starts no episode (R104). -/
theorem lineTest_rests (h : s.lineRests = true) : s.lineTest = s := by
  rw [State.lineTest, if_neg]
  rintro ⟨-, others, drive⟩
  simp [State.lineRests, others, drive] at h

theorem Effect.lineRests {p : Parts} (h : Effect p s t) (hp : p.line = false) : t.lineRests = s.lineRests := by
  simp only [State.lineRests, h.pins, h.line hp]

/-- With its line at rest the part is in CALM after the close, in the same event (R113, R127). -/
theorem closeEpisode_shockState (reason : CloseReason) (news : Option Station) (h : s.lineRests = true) :
    (s.closeEpisode reason news).shock.state = .calm := by
  have closed : Effect Parts.closing s (s.rosterEvent (State.closeWork reason news)) :=
    rosterEvent_effect (closeWork_alone reason news _ s) rfl rfl rfl
  have calm : (s.rosterEvent (State.closeWork reason news)).shock.state = .calm := by
    rw [rosterEvent_shock, closeWork_shockState]
  unfold State.closeEpisode
  dsimp only
  generalize s.rosterEvent (State.closeWork reason news) = u at closed calm ⊢
  have rests : u.lineRests = true := (closed.lineRests rfl).trans h
  cases s.shock.episode with
  | none =>
    have reset : (u.withCoord fun _ => {}).lineRests = true := rests
    simpa only [lineTest_rests reset, withCoord_shock] using calm
  | some e =>
    have handed (c : RecordContent) : ((u.hand c).withCoord fun _ => {}).lineRests = true :=
      ((hand_alone u c).lineRests rfl).trans rests
    simpa only [lineTest_rests (handed _), withCoord_shock, hand_shock] using calm

/-- Settles O51, by what PARK is and by the shock state that each of the named events leaves. -/
theorem parkFollowsTheShockState : Obligations.ParkFollowsTheShockState := by
  refine ⟨fun s => park_eq_true_iff, ?_, fun s => park_of_asleep (restart_asleep s .station _),
    fun s t role addr h => park_of_asleep (powerOnReset_asleep h), fun s t h => park_of_asleep (pinReset_asleep h),
    fun s reason news h => park_of_calm (closeEpisode_shockState reason news h), fun s ha hr hc => ?_⟩
  · rintro s (lid | bay | fault)
    · exact park_of_role_ne_base (by simp [lid])
    · exact park_of_role_ne_base (by simp [bay])
    · exact park_of_asleep (asleep (.inr fault))
  · exact ⟨s.ownFall, exec_ownFall_calm ha hc, (ownFall_leavesCalm s).park ha hr⟩

end Sys2Proof.Machine
end
